-- ==== Sys2Proof/Word.lean ====
section
/-!
DEFINITION. The words of the machine: bytes, byte strings, 256-bit register values and 32-bit words
(00_scope R11, R17, R18).
-/

namespace Sys2Proof

/-- A byte, an integer in [0, 255] (R18). -/
abbrev Byte := BitVec 8

/-- A byte string, indexed from 0 (R18). -/
abbrev Bytes := List Byte

/-- The value of an integer register, an unsigned integer of `XLEN = 256` bits (R11, R20). -/
abbrev Word := BitVec 256

/-- A 32-bit word: a command word, a bus word, a word of the hash functions (R11, R252). -/
abbrev Word32 := BitVec 32

end Sys2Proof
end

