-- ==== Sys2Proof/Syntax.lean ====
section
/-!
DEFINITION. The 47 commands (30_encoding R76), one constructor per row of spec/opcode_table.json. Fields
bear the names of R71; register numbers are of the file that R76 names for the field.
-/

namespace Sys2Proof

/-- The number of an integer register, `X0` to `X15` (R20, R75). -/
abbrev XReg := Fin 16

/-- The number of a point register, `P0` to `P3` (R24, R75). -/
abbrev PReg := Fin 4

/-- A command of the core (R76). -/
inductive Instr where
  -- moves and system (40_move_system)
  | nop
  | li (rd : XReg) (imm16 : BitVec 16)
  | ldc (rd : XReg) (imm16 : BitVec 16)
  | mov (rd rs1 : XReg)
  | setlen (imm16 : BitVec 16)
  | getlen (rd : XReg)
  | ldbe (rd : XReg) (off : BitVec 8) (len : BitVec 6)
  | ldle (rd : XReg) (off : BitVec 8) (len : BitVec 6)
  | stbe (rd : XReg) (off : BitVec 8) (len : BitVec 6)
  -- field (41_field)
  | fred (rd rs1 : XReg)
  | fadd (rd rs1 rs2 : XReg)
  | fsub (rd rs1 rs2 : XReg)
  | fneg (rd rs1 : XReg)
  | fmul (rd rs1 rs2 : XReg)
  | finv (rd rs1 : XReg)
  | fdiv (rd rs1 rs2 : XReg)
  | fpow (rd rs1 rs2 : XReg) (neg : Bool)
  | fsqrt (rd rs1 : XReg)
  | fisz (rd rs1 : XReg)
  | feq (rd rs1 rs2 : XReg)
  -- curve (42_curve)
  | pcont (rd rs1 rs2 : XReg)
  | pnew (rd : PReg) (rs1 rs2 : XReg)
  | pinf (rd : PReg)
  | pldg (rd : PReg)
  | pmov (rd rs1 : PReg)
  | padd (rd rs1 rs2 : PReg)
  | pmul (rd rs1 : PReg) (rs2 : XReg)
  | peq (rd : XReg) (rs1 rs2 : PReg)
  | pisinf (rd : XReg) (rs1 : PReg)
  | pgetx (rd : XReg) (rs1 : PReg)
  | pgety (rd : XReg) (rs1 : PReg)
  -- keys (43_keys); `c` is flag C (compressed), `t` is flag T (testnet)
  | keygen (rd : PReg) (rs1 : XReg)
  | secenc (rs1 : PReg) (c : Bool)
  | secdec (rd : PReg)
  | addr (rs1 : PReg) (c t : Bool)
  | wif (rs1 : XReg) (c t : Bool)
  -- ECDSA (44_ecdsa); `rs3` is the second destination of SIGN and DERDEC, the public key of VERIFY
  | nonce (rd rs1 : XReg)
  | sign (rd rs3 rs1 : XReg)
  | verify (rd : XReg) (rs3 : PReg) (rs1 rs2 : XReg)
  | derenc (rs1 rs2 : XReg)
  | derdec (rd rs3 : XReg)
  -- Base58 (45_base58)
  | b58enc
  | b58dec
  | b58cenc
  | b58cdec
  -- hashes (46_hash)
  | h256
  | h160
deriving DecidableEq, Repr

end Sys2Proof
end

