-- ==== Sys2Proof/WellFormed.lean ====
section
/-!
DEFINITION. When a term of `Instr` is one of the legal commands. The register files' ranges are in the
types; what is left are cases (d) and (e) of 30_encoding R77.
-/

namespace Sys2Proof

/-- Cases (d) and (e) of R77: LDC has an index at most 5, SETLEN a length at most 256, a buffer move a
byte count at most 32, and the two destinations of SIGN and of DERDEC differ. -/
def Instr.wellFormed : Instr → Bool
  | .ldc _ imm16 => decide (imm16.toNat ≤ 5)
  | .setlen imm16 => decide (imm16.toNat ≤ 256)
  | .ldbe _ _ len => decide (len.toNat ≤ 32)
  | .ldle _ _ len => decide (len.toNat ≤ 32)
  | .stbe _ _ len => decide (len.toNat ≤ 32)
  | .sign rd rs3 _ => decide (rd ≠ rs3)
  | .derdec rd rs3 => decide (rd ≠ rs3)
  | .nop | .li _ _ | .mov _ _ | .getlen _
  | .fred _ _ | .fadd _ _ _ | .fsub _ _ _ | .fneg _ _ | .fmul _ _ _ | .finv _ _ | .fdiv _ _ _
  | .fpow _ _ _ _ | .fsqrt _ _ | .fisz _ _ | .feq _ _ _
  | .pcont _ _ _ | .pnew _ _ _ | .pinf _ | .pldg _ | .pmov _ _ | .padd _ _ _ | .pmul _ _ _
  | .peq _ _ _ | .pisinf _ _ | .pgetx _ _ | .pgety _ _
  | .keygen _ _ | .secenc _ _ | .secdec _ | .addr _ _ _ | .wif _ _ _
  | .nonce _ _ | .verify _ _ _ _ | .derenc _ _
  | .b58enc | .b58dec | .b58cenc | .b58cdec | .h256 | .h160 => true

end Sys2Proof
end

