-- ==== Sys2Proof/Decode.lean ====
section
/-!
DEFINITION. Decoding and encoding of command words (30_encoding R70 to R80). `decode` is total on all
`2^32` words and rejects by name; `encode` writes the word of an instruction from the formats of R72 to R74.
-/

namespace Sys2Proof

/-- Why a word is illegal: the five cases of R77. All five raise `E_ILLEGAL_CMD`. -/
inductive DecodeError where
  /-- case (a): the opcode is not one of the 47. -/
  | unassignedOpcode
  /-- case (b): a field, flag or bit that the command does not use is not 0. -/
  | unusedNotZero
  /-- case (c): a field that names a P register holds 4 to 15. -/
  | pointRegister
  /-- case (d): an immediate or byte count is out of its range. -/
  | operandRange
  /-- case (e): the two destinations are the same register. -/
  | sameDestination
deriving DecidableEq, Repr

/-- `w[hi:lo]`, the bits `hi` down to `lo` as an integer (R17). -/
def bits (w : Word32) (hi lo : Nat) : Nat := w.toNat / 2 ^ lo % 2 ^ (hi - lo + 1)

/-- The register number in the 4-bit field whose low bit is `lo`, for an X register (R71, R75). -/
def xField (w : Word32) (lo : Nat) : XReg := Fin.ofNat 16 (bits w (lo + 3) lo)

/-- The register number in the 4-bit field whose low bit is `lo`, for a P register: 4 to 15 are illegal
(R75, R77 case (c)). -/
def pField (w : Word32) (lo : Nat) : Except DecodeError PReg :=
  if h : bits w (lo + 3) lo < 4 then .ok ⟨bits w (lo + 3) lo, h⟩ else .error .pointRegister

/-- `imm16 = w[31:16]` (R73). -/
def imm16Field (w : Word32) : BitVec 16 := BitVec.ofNat 16 (bits w 31 16)

/-- `len = w[17:12]` (R74). -/
def lenField (w : Word32) : BitVec 6 := BitVec.ofNat 6 (bits w 17 12)

/-- `off = w[31:24]` (R74). -/
def offField (w : Word32) : BitVec 8 := BitVec.ofNat 8 (bits w 31 24)

/-- Word bit `n` as an option flag: `C` and `S` are bit 24, `T` is bit 25 (R71). -/
def flagField (w : Word32) (n : Nat) : Bool := bits w n n == 1

/-- Case (b) of R77: the bit ranges `(hi, lo)` of `zs` must hold 0. -/
def zeros (w : Word32) (zs : List (Nat × Nat)) (i : Except DecodeError Instr) : Except DecodeError Instr :=
  if zs.all (fun z => bits w z.1 z.2 == 0) then i else .error .unusedNotZero

/-- Case (d) of R77. -/
def ranged (i : Instr) : Except DecodeError Instr :=
  if i.wellFormed then .ok i else .error .operandRange

/-- Case (e) of R77. -/
def distinct (i : Instr) : Except DecodeError Instr :=
  if i.wellFormed then .ok i else .error .sameDestination

/-- `Decode(w)` (R77): the command of R76 with its fields, or why the word is illegal. -/
def decode (w : Word32) : Except DecodeError Instr :=
  match bits w 7 0 with
  | 0x00 => zeros w [(31, 8)] (.ok .nop)
  | 0x01 => zeros w [(15, 12)] (.ok (.li (xField w 8) (imm16Field w)))
  | 0x02 => zeros w [(15, 12)] (ranged (.ldc (xField w 8) (imm16Field w)))
  | 0x03 => zeros w [(31, 16)] (.ok (.mov (xField w 8) (xField w 12)))
  | 0x04 => zeros w [(15, 8)] (ranged (.setlen (imm16Field w)))
  | 0x05 => zeros w [(31, 12)] (.ok (.getlen (xField w 8)))
  | 0x06 => zeros w [(23, 18)] (ranged (.ldbe (xField w 8) (offField w) (lenField w)))
  | 0x07 => zeros w [(23, 18)] (ranged (.ldle (xField w 8) (offField w) (lenField w)))
  | 0x08 => zeros w [(23, 18)] (ranged (.stbe (xField w 8) (offField w) (lenField w)))
  | 0x10 => zeros w [(31, 16)] (.ok (.fred (xField w 8) (xField w 12)))
  | 0x11 => zeros w [(31, 20)] (.ok (.fadd (xField w 8) (xField w 12) (xField w 16)))
  | 0x12 => zeros w [(31, 20)] (.ok (.fsub (xField w 8) (xField w 12) (xField w 16)))
  | 0x13 => zeros w [(31, 16)] (.ok (.fneg (xField w 8) (xField w 12)))
  | 0x14 => zeros w [(31, 20)] (.ok (.fmul (xField w 8) (xField w 12) (xField w 16)))
  | 0x15 => zeros w [(31, 16)] (.ok (.finv (xField w 8) (xField w 12)))
  | 0x16 => zeros w [(31, 20)] (.ok (.fdiv (xField w 8) (xField w 12) (xField w 16)))
  | 0x17 => zeros w [(23, 20), (31, 25)] (.ok (.fpow (xField w 8) (xField w 12) (xField w 16) (flagField w 24)))
  | 0x18 => zeros w [(31, 16)] (.ok (.fsqrt (xField w 8) (xField w 12)))
  | 0x19 => zeros w [(31, 16)] (.ok (.fisz (xField w 8) (xField w 12)))
  | 0x1A => zeros w [(31, 20)] (.ok (.feq (xField w 8) (xField w 12) (xField w 16)))
  | 0x20 => zeros w [(31, 20)] (.ok (.pcont (xField w 8) (xField w 12) (xField w 16)))
  | 0x21 => zeros w [(31, 20)] do
      let rd ← pField w 8
      .ok (.pnew rd (xField w 12) (xField w 16))
  | 0x22 => zeros w [(31, 12)] do
      let rd ← pField w 8
      .ok (.pinf rd)
  | 0x23 => zeros w [(31, 12)] do
      let rd ← pField w 8
      .ok (.pldg rd)
  | 0x24 => zeros w [(31, 16)] do
      let rd ← pField w 8
      let rs1 ← pField w 12
      .ok (.pmov rd rs1)
  | 0x25 => zeros w [(31, 20)] do
      let rd ← pField w 8
      let rs1 ← pField w 12
      let rs2 ← pField w 16
      .ok (.padd rd rs1 rs2)
  | 0x26 => zeros w [(31, 20)] do
      let rd ← pField w 8
      let rs1 ← pField w 12
      .ok (.pmul rd rs1 (xField w 16))
  | 0x27 => zeros w [(31, 20)] do
      let rs1 ← pField w 12
      let rs2 ← pField w 16
      .ok (.peq (xField w 8) rs1 rs2)
  | 0x28 => zeros w [(31, 16)] do
      let rs1 ← pField w 12
      .ok (.pisinf (xField w 8) rs1)
  | 0x29 => zeros w [(31, 16)] do
      let rs1 ← pField w 12
      .ok (.pgetx (xField w 8) rs1)
  | 0x2A => zeros w [(31, 16)] do
      let rs1 ← pField w 12
      .ok (.pgety (xField w 8) rs1)
  | 0x30 => zeros w [(31, 16)] do
      let rd ← pField w 8
      .ok (.keygen rd (xField w 12))
  | 0x31 => zeros w [(11, 8), (23, 16), (31, 25)] do
      let rs1 ← pField w 12
      .ok (.secenc rs1 (flagField w 24))
  | 0x32 => zeros w [(31, 12)] do
      let rd ← pField w 8
      .ok (.secdec rd)
  | 0x33 => zeros w [(11, 8), (23, 16), (31, 26)] do
      let rs1 ← pField w 12
      .ok (.addr rs1 (flagField w 24) (flagField w 25))
  | 0x34 => zeros w [(11, 8), (23, 16), (31, 26)] (.ok (.wif (xField w 12) (flagField w 24) (flagField w 25)))
  | 0x40 => zeros w [(31, 16)] (.ok (.nonce (xField w 8) (xField w 12)))
  | 0x41 => zeros w [(19, 16), (31, 24)] (distinct (.sign (xField w 8) (xField w 20) (xField w 12)))
  | 0x42 => zeros w [(31, 24)] do
      let rs3 ← pField w 20
      .ok (.verify (xField w 8) rs3 (xField w 12) (xField w 16))
  | 0x43 => zeros w [(11, 8), (31, 20)] (.ok (.derenc (xField w 12) (xField w 16)))
  | 0x44 => zeros w [(19, 12), (31, 24)] (distinct (.derdec (xField w 8) (xField w 20)))
  | 0x50 => zeros w [(31, 8)] (.ok .b58enc)
  | 0x51 => zeros w [(31, 8)] (.ok .b58dec)
  | 0x52 => zeros w [(31, 8)] (.ok .b58cenc)
  | 0x53 => zeros w [(31, 8)] (.ok .b58cdec)
  | 0x60 => zeros w [(31, 8)] (.ok .h256)
  | 0x61 => zeros w [(31, 8)] (.ok .h160)
  | _ => .error .unassignedOpcode

/-- Format R (R72): `w = opcode + rd·2^8 + rs1·2^12 + rs2·2^16 + rs3·2^20 + fl·2^24`. -/
def formatR (opcode rd rs1 rs2 rs3 fl : Nat) : Word32 :=
  BitVec.ofNat 32 (opcode + rd * 2 ^ 8 + rs1 * 2 ^ 12 + rs2 * 2 ^ 16 + rs3 * 2 ^ 20 + fl * 2 ^ 24)

/-- Format I (R73): `w = opcode + rd·2^8 + imm16·2^16`. -/
def formatI (opcode rd imm16 : Nat) : Word32 :=
  BitVec.ofNat 32 (opcode + rd * 2 ^ 8 + imm16 * 2 ^ 16)

/-- Format M (R74): `w = opcode + rd·2^8 + len·2^12 + off·2^24`. -/
def formatM (opcode rd len off : Nat) : Word32 :=
  BitVec.ofNat 32 (opcode + rd * 2 ^ 8 + len * 2 ^ 12 + off * 2 ^ 24)

/-- The word of an instruction, by the formats and opcodes of R72 to R76; option flag `C` or `S` is `fl`
bit 0, `T` is `fl` bit 1 (R71). -/
def encode : Instr → Word32
  | .nop => formatR 0x00 0 0 0 0 0
  | .li rd imm16 => formatI 0x01 rd imm16.toNat
  | .ldc rd imm16 => formatI 0x02 rd imm16.toNat
  | .mov rd rs1 => formatR 0x03 rd rs1 0 0 0
  | .setlen imm16 => formatI 0x04 0 imm16.toNat
  | .getlen rd => formatR 0x05 rd 0 0 0 0
  | .ldbe rd off len => formatM 0x06 rd len.toNat off.toNat
  | .ldle rd off len => formatM 0x07 rd len.toNat off.toNat
  | .stbe rd off len => formatM 0x08 rd len.toNat off.toNat
  | .fred rd rs1 => formatR 0x10 rd rs1 0 0 0
  | .fadd rd rs1 rs2 => formatR 0x11 rd rs1 rs2 0 0
  | .fsub rd rs1 rs2 => formatR 0x12 rd rs1 rs2 0 0
  | .fneg rd rs1 => formatR 0x13 rd rs1 0 0 0
  | .fmul rd rs1 rs2 => formatR 0x14 rd rs1 rs2 0 0
  | .finv rd rs1 => formatR 0x15 rd rs1 0 0 0
  | .fdiv rd rs1 rs2 => formatR 0x16 rd rs1 rs2 0 0
  | .fpow rd rs1 rs2 neg => formatR 0x17 rd rs1 rs2 0 neg.toNat
  | .fsqrt rd rs1 => formatR 0x18 rd rs1 0 0 0
  | .fisz rd rs1 => formatR 0x19 rd rs1 0 0 0
  | .feq rd rs1 rs2 => formatR 0x1A rd rs1 rs2 0 0
  | .pcont rd rs1 rs2 => formatR 0x20 rd rs1 rs2 0 0
  | .pnew rd rs1 rs2 => formatR 0x21 rd rs1 rs2 0 0
  | .pinf rd => formatR 0x22 rd 0 0 0 0
  | .pldg rd => formatR 0x23 rd 0 0 0 0
  | .pmov rd rs1 => formatR 0x24 rd rs1 0 0 0
  | .padd rd rs1 rs2 => formatR 0x25 rd rs1 rs2 0 0
  | .pmul rd rs1 rs2 => formatR 0x26 rd rs1 rs2 0 0
  | .peq rd rs1 rs2 => formatR 0x27 rd rs1 rs2 0 0
  | .pisinf rd rs1 => formatR 0x28 rd rs1 0 0 0
  | .pgetx rd rs1 => formatR 0x29 rd rs1 0 0 0
  | .pgety rd rs1 => formatR 0x2A rd rs1 0 0 0
  | .keygen rd rs1 => formatR 0x30 rd rs1 0 0 0
  | .secenc rs1 c => formatR 0x31 0 rs1 0 0 c.toNat
  | .secdec rd => formatR 0x32 rd 0 0 0 0
  | .addr rs1 c t => formatR 0x33 0 rs1 0 0 (c.toNat + 2 * t.toNat)
  | .wif rs1 c t => formatR 0x34 0 rs1 0 0 (c.toNat + 2 * t.toNat)
  | .nonce rd rs1 => formatR 0x40 rd rs1 0 0 0
  | .sign rd rs3 rs1 => formatR 0x41 rd rs1 0 rs3 0
  | .verify rd rs3 rs1 rs2 => formatR 0x42 rd rs1 rs2 rs3 0
  | .derenc rs1 rs2 => formatR 0x43 0 rs1 rs2 0 0
  | .derdec rd rs3 => formatR 0x44 rd 0 0 rs3 0
  | .b58enc => formatR 0x50 0 0 0 0 0
  | .b58dec => formatR 0x51 0 0 0 0 0
  | .b58cenc => formatR 0x52 0 0 0 0 0
  | .b58cdec => formatR 0x53 0 0 0 0 0
  | .h256 => formatR 0x60 0 0 0 0 0
  | .h160 => formatR 0x61 0 0 0 0 0

/-- The instruction the decoder reads from the bits `w` of a table row of `nbits` bits: a command word has
32 bits, those above `nbits` zero, and number 0 is its least significant bit (R71). -/
def decodeTableWord (nbits w : Nat) : Option Instr :=
  if w % 2 ^ nbits < 2 ^ 32 then (decode (BitVec.ofNat 32 (w % 2 ^ nbits))).toOption else none

/-- `X0` to `X15` in the assembly (R79). -/
def xName (r : XReg) : String := "X" ++ toString r.val

/-- `P0` to `P3` in the assembly (R79). -/
def pName (r : PReg) : String := "P" ++ toString r.val

/-- The option keyword of flag `C` (R79). -/
def compressedName (c : Bool) : String := if c then "C" else "U"

/-- The option keyword of flag `T` (R79). -/
def networkName (t : Bool) : String := if t then "TEST" else "MAIN"

/-- A mnemonic and its operands, separated by commas (R79). -/
def asmLine (mnemonic : String) (operands : List String) : String :=
  if operands.isEmpty then mnemonic else mnemonic ++ " " ++ String.intercalate ", " operands

/-- The spec's assembly of a command (R79): the mnemonic, then destinations, sources, immediates and option
keywords, in R79's order per command. -/
def assembly : Instr → String
  | .nop => asmLine "NOP" []
  | .li rd imm16 => asmLine "LI" [xName rd, toString imm16.toNat]
  | .ldc rd imm16 => asmLine "LDC" [xName rd, toString imm16.toNat]
  | .mov rd rs1 => asmLine "MOV" [xName rd, xName rs1]
  | .setlen imm16 => asmLine "SETLEN" [toString imm16.toNat]
  | .getlen rd => asmLine "GETLEN" [xName rd]
  | .ldbe rd off len => asmLine "LDBE" [xName rd, toString off.toNat, toString len.toNat]
  | .ldle rd off len => asmLine "LDLE" [xName rd, toString off.toNat, toString len.toNat]
  | .stbe rd off len => asmLine "STBE" [xName rd, toString off.toNat, toString len.toNat]
  | .fred rd rs1 => asmLine "FRED" [xName rd, xName rs1]
  | .fadd rd rs1 rs2 => asmLine "FADD" [xName rd, xName rs1, xName rs2]
  | .fsub rd rs1 rs2 => asmLine "FSUB" [xName rd, xName rs1, xName rs2]
  | .fneg rd rs1 => asmLine "FNEG" [xName rd, xName rs1]
  | .fmul rd rs1 rs2 => asmLine "FMUL" [xName rd, xName rs1, xName rs2]
  | .finv rd rs1 => asmLine "FINV" [xName rd, xName rs1]
  | .fdiv rd rs1 rs2 => asmLine "FDIV" [xName rd, xName rs1, xName rs2]
  | .fpow rd rs1 rs2 neg => asmLine "FPOW" [xName rd, xName rs1, xName rs2, if neg then "NEG" else "POS"]
  | .fsqrt rd rs1 => asmLine "FSQRT" [xName rd, xName rs1]
  | .fisz rd rs1 => asmLine "FISZ" [xName rd, xName rs1]
  | .feq rd rs1 rs2 => asmLine "FEQ" [xName rd, xName rs1, xName rs2]
  | .pcont rd rs1 rs2 => asmLine "PCONT" [xName rd, xName rs1, xName rs2]
  | .pnew rd rs1 rs2 => asmLine "PNEW" [pName rd, xName rs1, xName rs2]
  | .pinf rd => asmLine "PINF" [pName rd]
  | .pldg rd => asmLine "PLDG" [pName rd]
  | .pmov rd rs1 => asmLine "PMOV" [pName rd, pName rs1]
  | .padd rd rs1 rs2 => asmLine "PADD" [pName rd, pName rs1, pName rs2]
  | .pmul rd rs1 rs2 => asmLine "PMUL" [pName rd, pName rs1, xName rs2]
  | .peq rd rs1 rs2 => asmLine "PEQ" [xName rd, pName rs1, pName rs2]
  | .pisinf rd rs1 => asmLine "PISINF" [xName rd, pName rs1]
  | .pgetx rd rs1 => asmLine "PGETX" [xName rd, pName rs1]
  | .pgety rd rs1 => asmLine "PGETY" [xName rd, pName rs1]
  | .keygen rd rs1 => asmLine "KEYGEN" [pName rd, xName rs1]
  | .secenc rs1 c => asmLine "SECENC" [pName rs1, compressedName c]
  | .secdec rd => asmLine "SECDEC" [pName rd]
  | .addr rs1 c t => asmLine "ADDR" [pName rs1, compressedName c, networkName t]
  | .wif rs1 c t => asmLine "WIF" [xName rs1, compressedName c, networkName t]
  | .nonce rd rs1 => asmLine "NONCE" [xName rd, xName rs1]
  | .sign rd rs3 rs1 => asmLine "SIGN" [xName rd, xName rs3, xName rs1]
  | .verify rd rs3 rs1 rs2 => asmLine "VERIFY" [xName rd, pName rs3, xName rs1, xName rs2]
  | .derenc rs1 rs2 => asmLine "DERENC" [xName rs1, xName rs2]
  | .derdec rd rs3 => asmLine "DERDEC" [xName rd, xName rs3]
  | .b58enc => asmLine "B58ENC" []
  | .b58dec => asmLine "B58DEC" []
  | .b58cenc => asmLine "B58CENC" []
  | .b58cdec => asmLine "B58CDEC" []
  | .h256 => asmLine "H256" []
  | .h160 => asmLine "H160" []

end Sys2Proof
end

