-- ==== Sys2Proof/Machine/ByteStrings.lean ====
section
/-!
DEFINITION. Integers and byte strings (00_scope R18). The document fixes big-endian for every encoding it
defines (R18, R55).
-/

namespace Sys2Proof.Machine

/-- `int_be(s) = Σ s[i]·256^(|s|-1-i)`, 0 for the empty string (R18). -/
def intBE (s : Bytes) : Nat := s.foldl (fun acc b => acc * 256 + b.toNat) 0

/-- `int_le(s) = Σ s[i]·256^i`, 0 for the empty string (R18). -/
def intLE : Bytes → Nat
  | [] => 0
  | b :: s => b.toNat + 256 * intLE s

/-- `bytes_be(v, n)`, the string of length `n` whose `int_be` is `v` when `v < 256^n` (R18). -/
def bytesBE (v : Nat) : Nat → Bytes
  | 0 => []
  | n + 1 => BitVec.ofNat 8 (v / 256 ^ n) :: bytesBE v n

/-- `bytes_le(v, n)`, the same bytes least significant first (R253). -/
def bytesLE (v : Nat) : Nat → Bytes
  | 0 => []
  | n + 1 => BitVec.ofNat 8 v :: bytesLE (v / 256) n

/-- `strip0(s)`, `s` without its leading `0x00` bytes (R18). -/
def strip0 : Bytes → Bytes
  | [] => []
  | b :: s => if b = 0 then strip0 s else b :: s

/-- The number of leading bytes of `s` equal to `b` (R232, R234). -/
def leading (b : Byte) : Bytes → Nat
  | [] => 0
  | c :: s => if c = b then leading b s + 1 else 0

/-- `s` cut into `n` pieces of `size` bytes. -/
def pieces (size : Nat) : Nat → Bytes → List Bytes
  | 0, _ => []
  | n + 1, s => s.take size :: pieces size n (s.drop size)

end Sys2Proof.Machine
end

