-- ==== Sys2Proof/Config.lean ====
section
/-!
DEFINITION. What is fixed for the machine and is not state (00_scope R8 to R11, R13; 10_state R30): the
constants of the curve, the network version bytes, and the values the spec leaves free.
-/

namespace Sys2Proof.Config

/-- `PRIME = 2^256 - 2^32 - 977`, the field modulus (R8). -/
def prime : Nat := 0xFFFFFFFFFFFFFFFFFFFFFFFFFFFFFFFFFFFFFFFFFFFFFFFFFFFFFFFEFFFFFC2F

/-- `A = 0`, the curve's first coefficient (R8). -/
def curveA : Nat := 0

/-- `B = 7`, the curve's second coefficient (R8). -/
def curveB : Nat := 7

/-- `GX`, the base point's first coordinate (R9). PRESUMED: the spec marks the digits as general
knowledge and lets a model take them as given; log entry 6. Unsafe if the hardware has others. -/
def gx : Nat := 0x79BE667EF9DCBBAC55A06295CE870B07029BFCDB2DCE28D959F2815B16F81798

/-- `GY`, the base point's second coordinate (R9). PRESUMED, log entry 6; unsafe if the hardware has another. -/
def gy : Nat := 0x483ADA7726A3C4655DA4FBFC0E1108A8FD17B448A68554199C47D08FFB10D4B8

/-- `N`, the group order (R9). PRESUMED, log entry 6; unsafe if the hardware has another. -/
def order : Nat := 0xFFFFFFFFFFFFFFFFFFFFFFFFFFFFFFFEBAAEDCE6AF48A03BBFD25E8CD0364141

/-- `VER_ADDR_MAIN` (R10, R185). PRESUMED, log entry 7; unsafe if the network uses another byte. -/
def verAddrMain : Byte := 0x00

/-- `VER_ADDR_TEST` (R10, R185); the spec derives it from the source's printed address. -/
def verAddrTest : Byte := 0x6F

/-- `VER_WIF_MAIN` (R10, R185). PRESUMED, log entry 7; unsafe if the network uses another byte. -/
def verWifMain : Byte := 0x80

/-- `VER_WIF_TEST` (R10, R185). PRESUMED, log entry 7; unsafe if the network uses another byte. -/
def verWifTest : Byte := 0xEF

/-- FREE VALUE: the word that the `n`-th host read other than of `STATUS` returns while `BUSY = 1`. The
model gives it no law (20_memory R61, R315 item 1). DESIGN CHOICE of form, log entry 4; safe. -/
opaque busyRead : Nat → Word32

/-- FREE VALUE: what SIGN would take for `r` if `k·G` were the identity. R205 says this never happens, so
no value is stated for it. DEDUCED, log entry 12; safe. -/
opaque identityX : Nat → Word

end Sys2Proof.Config
end

