-- ==== Sys2Proof/Machine/State.lean ====
section
/-!
DEFINITION. The complete state of the core (10_state, the tuple at its head, and R20 to R41), the host's
side of the bus as plain data (20_memory R51, R60), and the state after reset (R41, R330).
-/

namespace Sys2Proof.Machine

/-- A point value (R24, R150): the identity, or the affine point `(x, y)`. -/
inductive Point where
  /-- `Inf`, the point at infinity. -/
  | inf
  /-- `Pt(x, y)`. -/
  | pt (x y : Word)
deriving DecidableEq, Repr

/-- The error codes of 60_exceptions R301 and R302, by name. A command that raises one takes the fault
entry of R305, which is a next state of the machine. -/
inductive ErrCode where
  /-- `E_NOT_ON_CURVE`: PNEW and SECDEC. -/
  | notOnCurve
  /-- `E_CURVE_MISMATCH`: reserved, raised by no command (R301, U5). -/
  | curveMismatch
  /-- `E_SER_IDENTITY`: SECENC and ADDR of the identity. -/
  | serIdentity
  /-- `E_BAD_LENGTH`: NONCE, SIGN, VERIFY, SECDEC, B58CDEC. -/
  | badLength
  /-- `E_DER_COMPOUND`: DERDEC. -/
  | derCompound
  /-- `E_DER_MARKER`: DERDEC. -/
  | derMarker
  /-- `E_DER_LENGTH`: DERDEC. -/
  | derLength
  /-- `E_ENC_OVERFLOW`: STBE and DERDEC. -/
  | encOverflow
  /-- `E_FIELD_RANGE`: reserved, raised by no command (R301, U6). -/
  | fieldRange
  /-- `E_ILLEGAL_CMD`: every illegal word (R77). -/
  | illegalCmd
  /-- `E_BUF_BOUNDS`: LDBE, LDLE, STBE, B58ENC, B58CENC. -/
  | bufBounds
  /-- `E_INV_ZERO`: FINV and FDIV. -/
  | invZero
  /-- `E_NO_COORD`: PGETX and PGETY of the identity. -/
  | noCoord
  /-- `E_SEC_TAG`: SECDEC. -/
  | secTag
  /-- `E_B58_CHAR`: B58DEC and B58CDEC. -/
  | b58Char
  /-- `E_B58_CHECKSUM`: B58CDEC. -/
  | b58Checksum
deriving DecidableEq, Repr

/-- The local state of the nonce generator, `K` and `V` (R203), between two candidates of a NONCE or SIGN
that is still running. -/
structure NonceLoop where
  /-- `K`, the HMAC key. -/
  k : Bytes
  /-- `V`, the last HMAC output. -/
  v : Bytes
deriving DecidableEq, Repr

/-- One interaction of the host, or of the platform for it (R51). -/
inductive HostOp where
  /-- `HostRead(off)` by an access of `width` bits. -/
  | read (off width : Nat)
  /-- `HostWrite(off, w)` by an access of `width` bits; `w` holds the 32 bits of an access of that width,
  the only width that stores anything (R57). -/
  | write (off width : Nat) (w : Word32)
  /-- The platform asserts reset (R330). -/
  | reset
  /-- The host makes no access: the core moves (log entry 1). -/
  | wait
deriving DecidableEq, Repr

/-- What the host got back from its last access (R51, R57). -/
inductive BusReply where
  /-- No access since reset. -/
  | none
  /-- A write completed. -/
  | done
  /-- A read returned this word. -/
  | word (w : Word32)
  /-- `BusError`: no state of the core changed and a read returned no value (R57). -/
  | busError
deriving DecidableEq, Repr

/-- Memory as a list of (address, byte) pairs; an address that is not listed reads 0, the reset content
that R41 gives. -/
abbrev Memory := List Host.Cell

/-- The complete state of the core (10_state), and after it the model's own fields for what the rules keep
outside that tuple. -/
structure State where
  /-- `X0` to `X15` (R20). -/
  x : Vector Word 16
  /-- `P0` to `P3` (R24). -/
  p : Vector Point 4
  /-- `BUF`, 256 bytes (R28). -/
  buf : Memory
  /-- `LEN`, an integer in [0, 256] (R28, R38). -/
  len : Fin 257
  /-- `CMD`, the last command word accepted (R33). -/
  cmd : Word32
  /-- `STATUS.BUSY` (R34, R35). -/
  busy : Bool
  /-- `STATUS.DONE` (R34, R35). -/
  done : Bool
  /-- `STATUS.ERR`, 0 when no fault is pending (R34, R35). -/
  err : BitVec 8
  /-- `CTRL.IE` (R36). -/
  ie : Bool
  /-- `ECMD`, the word of the last failed command (R37). -/
  ecmd : Word32
  /-- MODEL'S OWN: `K` and `V` of a NONCE or SIGN whose candidate loop has not ended (R203, R340);
  log entry 3. -/
  nonceLoop : Option NonceLoop
  /-- MODEL'S OWN: the host's interactions still to come, oldest first (R51, R60); log entry 2. -/
  hostOps : List HostOp
  /-- MODEL'S OWN: what the last host access got back; log entry 16. -/
  reply : BusReply
  /-- MODEL'S OWN: how many unspecified reads were made (R61); selects the free value of the next one;
  log entry 4. -/
  draws : Nat
deriving DecidableEq, Repr

/-- Why the machine could stop with a fault. The faults of the spec (R300 to R310) are no stops: a command
that raises one goes on to the state of R305. -/
inductive Fault where
  /-- A message longer than `BUFSZ = 256` bytes would be written: `MemWrite` and `SetMsg` are not defined
  there (R19). Raised by the shared operation `setMsg`; no command reaches it, because every rule bounds its
  output or checks it first. Safe: the machine stops where nothing is defined. Log entry 11. -/
  | bufferRange
deriving DecidableEq, Repr

/-- Why an instruction has no outcome. -/
inductive Refusal where
  /-- The instruction has no meaning in the model yet. Raised by an arm of `exec` alone; safe. -/
  | notModelled (mnemonic : String)
deriving DecidableEq, Repr

/-- The outcome of a step or of an instruction. -/
abbrev Result := Host.Outcome State Fault Refusal

/-- The machine right after reset (R41, R330): every value is the spec's, but those of the model's own four
fields (log entries 2, 3, 4 and 16). -/
def State.reset : State where
  x := Vector.replicate 16 0
  p := Vector.replicate 4 .inf
  buf := []
  len := 0
  cmd := 0
  busy := false
  done := false
  err := 0
  ie := false
  ecmd := 0
  nonceLoop := none
  hostOps := []
  reply := .none
  draws := 0

end Sys2Proof.Machine
end

