-- ==== Sys2Proof/Machine/Ops.lean ====
section
/-!
DEFINITION. The named operations over registers and the buffer (00_scope R19), the end of a command (30_encoding
R70), taking a fault and returning from it (60_exceptions R305, R308), and reset (70_reset_and_hazards R330, R331).
-/

namespace Sys2Proof.Machine

/-! ### Registers -/

/-- `X[i]` (R19). -/
def State.readX (s : State) (i : XReg) : Word := s.x[i]

/-- `X[i] <- v` (R19). -/
def State.writeX (s : State) (i : XReg) (v : Word) : State := { s with x := s.x.set i v }

/-- `P[i]` (R19). -/
def State.readP (s : State) (i : PReg) : Point := s.p[i]

/-- `P[i] <- v` (R19). -/
def State.writeP (s : State) (i : PReg) (v : Point) : State := { s with p := s.p.set i v }

/-! ### The buffer as a list of (address, byte) pairs -/

namespace Memory

/-- The byte at address `a`; an unlisted address reads 0, the content at reset (R41). -/
def readByte : Memory → Nat → Byte
  | [], _ => 0
  | c :: m, a => if c.1 = a then c.2 else readByte m a

/-- The memory with byte `b` at address `a`, in canonical form: writing 0 removes the entry. -/
def writeByte : Memory → Nat → Byte → Memory
  | [], a, b => if b = 0 then [] else [(a, b)]
  | c :: m, a, b =>
    if a < c.1 then (if b = 0 then c :: m else (a, b) :: c :: m)
    else if a = c.1 then (if b = 0 then m else (a, b) :: m)
    else c :: writeByte m a b

/-- The `n` bytes from address `k`. -/
def readBytes (m : Memory) (k : Nat) : Nat → Bytes
  | 0 => []
  | n + 1 => readByte m k :: readBytes m (k + 1) n

/-- The memory with the string `s` written from address `k`. -/
def writeBytes (m : Memory) (k : Nat) : Bytes → Memory
  | [] => m
  | b :: s => writeBytes (writeByte m k b) (k + 1) s

/-- The canonical form: addresses strictly rising from at least `lo`, all inside `BUF` (R28), and no listed
byte equal to 0, which is what an unlisted address reads. -/
def wfFrom (lo : Nat) : Memory → Bool
  | [] => true
  | c :: m => decide (lo ≤ c.1) && decide (c.1 < 256) && decide (c.2 ≠ 0) && wfFrom (c.1 + 1) m

/-- The canonical form of the whole buffer. -/
def wf (m : Memory) : Bool := wfFrom 0 m

end Memory

/-- `MemRead(k, n)`, defined when `k + n ≤ BUFSZ = 256` (R19). -/
def State.memRead (s : State) (k n : Nat) : Option Bytes :=
  if k + n ≤ 256 then some (Memory.readBytes s.buf k n) else none

/-- `MemWrite(k, bs)`, defined when `k + |bs| ≤ BUFSZ = 256` (R19). -/
def State.memWrite (s : State) (k : Nat) (bs : Bytes) : Option State :=
  if k + bs.length ≤ 256 then some { s with buf := Memory.writeBytes s.buf k bs } else none

/-- `MSG`, the message `BUF[0..LEN)` (R19, R28). -/
def State.msg (s : State) : Bytes := Memory.readBytes s.buf 0 s.len.val

/-! ### The end of a command -/

/-- `BUSY <- 0; DONE <- 1` (R70); the command's local state ends with it (R203). -/
def State.complete (s : State) : State := { s with busy := false, done := true, nonceLoop := none }

/-- A command that succeeded, its writes already in `s` (R70). -/
def finish (s : State) : Result := .next s.complete

/-- `X[i] <- v`, and the command has succeeded. -/
def finishX (s : State) (i : XReg) (v : Word) : Result := finish (s.writeX i v)

/-- `P[i] <- v`, and the command has succeeded. -/
def finishP (s : State) (i : PReg) (v : Point) : Result := finish (s.writeP i v)

/-- `SetMsg(bs)` for `|bs| ≤ BUFSZ`: `MemWrite(0, bs); LEN <- |bs|`; bytes at and beyond the new `LEN` keep
their content (R19). -/
def State.withMsg (s : State) (bs : Bytes) (h : bs.length ≤ 256) : State :=
  { s with buf := Memory.writeBytes s.buf 0 bs, len := ⟨bs.length, Nat.lt_succ_of_le h⟩ }

/-- `SetMsg(bs)`, and the command has succeeded. A longer string has nowhere to go (log entry 11). -/
def setMsg (s : State) (bs : Bytes) : Result :=
  if h : bs.length ≤ 256 then finish (s.withMsg bs h) else .fault .bufferRange

/-! ### Faults -/

/-- The number of an error code (R301, R302). -/
def ErrCode.code : ErrCode → BitVec 8
  | .notOnCurve => 0x01
  | .curveMismatch => 0x02
  | .serIdentity => 0x03
  | .badLength => 0x04
  | .derCompound => 0x05
  | .derMarker => 0x06
  | .derLength => 0x07
  | .encOverflow => 0x08
  | .fieldRange => 0x09
  | .illegalCmd => 0x10
  | .bufBounds => 0x11
  | .invZero => 0x12
  | .noCoord => 0x13
  | .secTag => 0x14
  | .b58Char => 0x15
  | .b58Checksum => 0x16

/-- FAULT ENTRY (R305): `ERR <- code; ECMD <- w; BUSY <- 0; DONE <- 1`, where `CMD` already holds `w`; `X`,
`P`, `BUF`, `LEN` and `IE` are unchanged. -/
def State.takeFault (s : State) (e : ErrCode) : State :=
  { s.complete with err := e.code, ecmd := s.cmd }

/-- `raise Fault(code)`: the command takes the fault and writes nothing else (R19, R305). -/
def raise (s : State) (e : ErrCode) : Result := .next (s.takeFault e)

/-- A check of a command: go on with its value, or raise its fault. -/
def attempt {α : Type} (s : State) (r : Except ErrCode α) (k : α → Result) : Result :=
  match r with
  | .ok a => k a
  | .error e => raise s e

/-- RETURN FROM A FAULT, `CTRL.CLRERR`: `ERR <- 0`; `ECMD` and `DONE` keep their values (R36, R308). -/
def State.clearFault (s : State) : State := { s with err := 0 }

/-! ### Issue, fetch and reset -/

/-- A host's write of `w` to `CMD` that is accepted: `CMD <- w; DONE <- 0; BUSY <- 1` (R33, R70). -/
def State.issue (s : State) (w : Word32) : State :=
  { s with cmd := w, done := false, busy := true, nonceLoop := none }

/-- The command word the core executes: the word sampled at the `CMD` write (R31, R64). -/
def State.fetch (s : State) : Word32 := s.cmd

/-- Reset while the machine runs: the state of R41, whatever was running (R330, R331). What the host will do
next and the free values already drawn are outside the core and stay (log entry 2). -/
def State.hardReset (s : State) : State := { State.reset with hostOps := s.hostOps, draws := s.draws }

end Sys2Proof.Machine
end

