-- ==== Sys2Proof/Machine/Flags.lean ====
section
/-!
DEFINITION. The core has no condition codes (10_state R32): a command that answers a question writes 1 or 0 to a
register. The status and control words, and the interrupt line, are views of the state (R34, R36, 60_exceptions R311).
-/

namespace Sys2Proof.Machine

/-- A truth value as a register value: 1 for true, 0 for false (R32). -/
def truth (b : Bool) : Word := if b then 1 else 0

/-- `STATUS.FAULT`, which is 1 iff `ERR ≠ 0` (R34). -/
def State.faultFlag (s : State) : Bool := s.err != 0

/-- The `STATUS` word: bit 0 `BUSY`, bit 1 `DONE`, bit 2 `FAULT`, bits 15:8 `ERR`, the others 0 (R34). -/
def State.statusWord (s : State) : Word32 :=
  BitVec.ofNat 32 (s.busy.toNat + 2 * s.done.toNat + 4 * s.faultFlag.toNat + 256 * s.err.toNat)

/-- The `CTRL` word: bit 0 `IE`; `CLRERR` reads 0, and so do bits 31:2 (R36). -/
def State.ctrlWord (s : State) : Word32 := BitVec.ofNat 32 s.ie.toNat

/-- The interrupt output, `irq = IE AND DONE` (R311). -/
def State.irq (s : State) : Bool := s.ie && s.done

end Sys2Proof.Machine
end

