-- ==== Sys2Proof/Machine/Operands.lean ====
section
/-!
DEFINITION. The operand forms of the commands: a register as an integer or as a field element, an immediate, a
constant by its index, a window of the buffer (30_encoding R71 to R75, 40_move_system R102 and R105, 41_field R120).
-/

namespace Sys2Proof.Machine

/-- `X[i]` as an integer in `[0, 2^256)` (R20). -/
def State.xNat (s : State) (i : XReg) : Nat := (s.readX i).toNat

/-- `fe(i) = X[i] mod PRIME`, a source register read as a field element (R120). -/
def State.fe (s : State) (i : XReg) : Nat := s.xNat i % Config.prime

/-- An integer below `2^256` as a register value. -/
def word (v : Nat) : Word := BitVec.ofNat 256 v

/-- An immediate, zero-extended and never scaled (R73). -/
def immediate (imm : BitVec 16) : Word := imm.setWidth 256

/-- `CONST[i]` of LDC for `i` in 0..5 (R102). -/
def constant (i : Nat) : Option Word :=
  match i with
  | 0 => some (word Config.prime)
  | 1 => some (word Config.order)
  | 2 => some (word Config.gx)
  | 3 => some (word Config.gy)
  | 4 => some (word Config.curveA)
  | 5 => some (word Config.curveB)
  | _ => none

/-- The operand of LDBE and LDLE: the bytes of the window `[off, off + len)` go to `k`; a byte count above 32 is
illegal at decode (R77), and a window that passes the end of `BUF` raises `E_BUF_BOUNDS` (R105). -/
def withWindow (s : State) (off : BitVec 8) (len : BitVec 6) (k : Bytes → Result) : Result :=
  if len.toNat > 32 then raise s .illegalCmd
  else
    match s.memRead off.toNat len.toNat with
    | none => raise s .bufBounds
    | some bs => k bs

end Sys2Proof.Machine
end

