-- ==== Sys2Proof/Machine/Bus.lean ====
section
/-!
DEFINITION. The bus window (20_memory R50 to R61): what a host read returns and what a host write does, when the
core is idle and while it is busy.
-/

namespace Sys2Proof.Machine

/-- An access the window takes: an aligned word inside `0x000..0x5FF`; any other ends in `BusError` (R57). -/
def busAligned (off width : Nat) : Bool := decide (width = 32) && decide (off % 4 = 0) && decide (off < 0x600)

/-- The X register of the window offset `0x200 + 32·i + 4·j` (R52). -/
def windowReg (off : Nat) : XReg := Fin.ofNat 16 ((off - 0x200) / 32)

/-- The word number `j` of the window offset `0x200 + 32·i + 4·j` (R52). -/
def windowWord (off : Nat) : Nat := (off - 0x200) % 32 / 4

/-- `v[32j+31 : 32j]` (R53). -/
def getWord (v : Word) (j : Nat) : Word32 := BitVec.ofNat 32 (v.toNat / 2 ^ (32 * j))

/-- `v` with bits `32j+31 : 32j` set to `w` and the other 224 bits unchanged (R53). -/
def putWord (v : Word) (j : Nat) (w : Word32) : Word :=
  BitVec.ofNat 256
    (v.toNat / 2 ^ (32 * j + 32) * 2 ^ (32 * j + 32) + w.toNat * 2 ^ (32 * j) + v.toNat % 2 ^ (32 * j))

/-- `HostRead(off)` of an aligned word while the core is idle (R52). -/
def State.windowRead (s : State) (off : Nat) : Word32 :=
  if off = 0x000 then s.cmd
  else if off = 0x004 then s.statusWord
  else if off = 0x008 then s.ctrlWord
  else if off = 0x00C then s.ecmd
  else if off = 0x010 then BitVec.ofNat 32 s.len.val
  else if 0x200 ≤ off ∧ off < 0x400 then getWord (s.readX (windowReg off)) (windowWord off)
  else if 0x400 ≤ off ∧ off < 0x500 then BitVec.ofNat 32 (intLE (Memory.readBytes s.buf (off - 0x400) 4))
  else 0

/-- `HostWrite(0x000, w)` while the core is idle: issued if no fault is pending, else dropped (R33, R307). -/
def State.writeCmd (s : State) (w : Word32) : State := if s.err = 0 then s.issue w else s

/-- `HostWrite(0x004, w)`: bit 1 clears `DONE`, every other bit is ignored (R34). -/
def State.writeStatus (s : State) (w : Word32) : State := if w.getLsbD 1 then { s with done := false } else s

/-- `HostWrite(0x008, w)`: `IE` from bit 0 and `CLRERR` from bit 1, in one access (R36). -/
def State.writeCtrl (s : State) (w : Word32) : State :=
  let s := { s with ie := w.getLsbD 0 }
  if w.getLsbD 1 then s.clearFault else s

/-- `HostWrite(0x010, w)`: `LEN <- w` if `w ≤ 256`, else ignored (R38). -/
def State.writeLen (s : State) (w : Word32) : State :=
  if h : w.toNat ≤ 256 then { s with len := ⟨w.toNat, Nat.lt_succ_of_le h⟩ } else s

/-- `HostWrite(off, w)` of an aligned word while the core is idle (R52); a write to `ECMD` or to a reserved
word is ignored. -/
def State.windowWrite (s : State) (off : Nat) (w : Word32) : State :=
  if off = 0x000 then s.writeCmd w
  else if off = 0x004 then s.writeStatus w
  else if off = 0x008 then s.writeCtrl w
  else if off = 0x010 then s.writeLen w
  else if 0x200 ≤ off ∧ off < 0x400 then
    s.writeX (windowReg off) (putWord (s.readX (windowReg off)) (windowWord off) w)
  else if 0x400 ≤ off ∧ off < 0x500 then
    { s with buf := Memory.writeBytes s.buf (off - 0x400) (bytesLE w.toNat 4) }
  else s

/-- A host read: `BusError` (R57), the word (R52), or, while a command runs, `STATUS` as it is and for every other
offset an unspecified word that changes nothing (R61; log entries 4 and 5). -/
def State.hostRead (s : State) (off width : Nat) : State :=
  if !busAligned off width then { s with reply := .busError }
  else if s.busy && decide (off ≠ 0x004) then
    { s with reply := .word (Config.busyRead s.draws), draws := s.draws + 1 }
  else { s with reply := .word (s.windowRead off) }

/-- A host write: `BusError` (R57), dropped while a command runs (R61), or the write of R52. -/
def State.hostWrite (s : State) (off width : Nat) (w : Word32) : State :=
  if !busAligned off width then { s with reply := .busError }
  else if s.busy then { s with reply := .done }
  else { s.windowWrite off w with reply := .done }

end Sys2Proof.Machine
end

