-- ==== Sys2Proof/Machine/HashFunctions.lean ====
section
/-!
DEFINITION. SHA-256, RIPEMD-160 and HMAC-SHA256 (46_hash R252 to R254). PRESUMED in the spec itself (general
knowledge, D33); log entry 8; unsafe if the hardware's primitives differ.
-/

namespace Sys2Proof.Machine

/-- `ROTR(x, n)` for `0 < n < 32` (46_hash section 2). -/
def rotr (x : Word32) (n : Nat) : Word32 := (x >>> n) ||| (x <<< (32 - n))

/-- `ROTL(x, n) = ROTR(x, 32 - n)` (46_hash section 2). -/
def rotl (x : Word32) (n : Nat) : Word32 := rotr x (32 - n)

/-- `pad(m)` without its last 8 bytes: `m ‖ [0x80] ‖ k bytes 0x00`, `k` the least number that makes the
padded length a multiple of 64 (46_hash section 2). -/
def padZeros (m : Bytes) : Bytes :=
  m ++ [0x80] ++ List.replicate ((119 - m.length % 64) % 64) 0

namespace Sha

/-- The round constants `K[0..64)` (R252). -/
def roundConstants : List Word32 :=
  [0x428A2F98, 0x71374491, 0xB5C0FBCF, 0xE9B5DBA5, 0x3956C25B, 0x59F111F1, 0x923F82A4, 0xAB1C5ED5,
   0xD807AA98, 0x12835B01, 0x243185BE, 0x550C7DC3, 0x72BE5D74, 0x80DEB1FE, 0x9BDC06A7, 0xC19BF174] ++
  [0xE49B69C1, 0xEFBE4786, 0x0FC19DC6, 0x240CA1CC, 0x2DE92C6F, 0x4A7484AA, 0x5CB0A9DC, 0x76F988DA,
   0x983E5152, 0xA831C66D, 0xB00327C8, 0xBF597FC7, 0xC6E00BF3, 0xD5A79147, 0x06CA6351, 0x14292967] ++
  [0x27B70A85, 0x2E1B2138, 0x4D2C6DFC, 0x53380D13, 0x650A7354, 0x766A0ABB, 0x81C2C92E, 0x92722C85,
   0xA2BFE8A1, 0xA81A664B, 0xC24B8B70, 0xC76C51A3, 0xD192E819, 0xD6990624, 0xF40E3585, 0x106AA070] ++
  [0x19A4C116, 0x1E376C08, 0x2748774C, 0x34B0BCB5, 0x391C0CB3, 0x4ED8AA4A, 0x5B9CCA4F, 0x682E6FF3,
   0x748F82EE, 0x78A5636F, 0x84C87814, 0x8CC70208, 0x90BEFFFA, 0xA4506CEB, 0xBEF9A3F7, 0xC67178F2]

/-- The hash state `(a, b, c, d, e, f, g, h)`, or `H[0..8)` (R252). -/
structure Block where
  (a b c d e f g h : Word32)
deriving DecidableEq, Repr

/-- The initial state `H[0..8)` (R252). -/
def initial : Block :=
  ⟨0x6A09E667, 0xBB67AE85, 0x3C6EF372, 0xA54FF53A, 0x510E527F, 0x9B05688C, 0x1F83D9AB, 0x5BE0CD19⟩

/-- `s0` of the message schedule (R252). -/
def s0 (x : Word32) : Word32 := rotr x 7 ^^^ rotr x 18 ^^^ (x >>> 3)

/-- `s1` of the message schedule (R252). -/
def s1 (x : Word32) : Word32 := rotr x 17 ^^^ rotr x 19 ^^^ (x >>> 10)

/-- `n` more words of the schedule in front of `ws`, which holds the newest word first, so that `W[t-2]`,
`W[t-7]`, `W[t-15]` and `W[t-16]` are at 1, 6, 14 and 15 (R252). -/
def extend : Nat → List Word32 → List Word32
  | 0, ws => ws
  | n + 1, ws =>
    extend n ((ws.getD 15 0 + s0 (ws.getD 14 0) + ws.getD 6 0 + s1 (ws.getD 1 0)) :: ws)

/-- The schedule `W[0..64)` of a 64-byte block (R252). -/
def schedule (block : Bytes) : List Word32 :=
  (extend 48 ((pieces 4 16 block).map (fun b => BitVec.ofNat 32 (intBE b))).reverse).reverse

/-- One round with its constant `kw.1 = K[t]` and word `kw.2 = W[t]` (R252). -/
def round (s : Block) (kw : Word32 × Word32) : Block :=
  let t1 := s.h + (rotr s.e 6 ^^^ rotr s.e 11 ^^^ rotr s.e 25) + ((s.e &&& s.f) ^^^ (~~~s.e &&& s.g)) + kw.1 + kw.2
  let t2 := (rotr s.a 2 ^^^ rotr s.a 13 ^^^ rotr s.a 22) + ((s.a &&& s.b) ^^^ (s.a &&& s.c) ^^^ (s.b &&& s.c))
  ⟨t1 + t2, s.a, s.b, s.c, s.d + t1, s.e, s.f, s.g⟩

/-- The 64 rounds of a block and the final additions (R252). -/
def compress (s : Block) (block : Bytes) : Block :=
  let r := (roundConstants.zip (schedule block)).foldl round s
  ⟨s.a + r.a, s.b + r.b, s.c + r.c, s.d + r.d, s.e + r.e, s.f + r.f, s.g + r.g, s.h + r.h⟩

/-- `bytes_be(H[0],4) ‖ ... ‖ bytes_be(H[7],4)` (R252). -/
def output (s : Block) : Bytes :=
  bytesBE s.a.toNat 4 ++ bytesBE s.b.toNat 4 ++ bytesBE s.c.toNat 4 ++ bytesBE s.d.toNat 4 ++
  bytesBE s.e.toNat 4 ++ bytesBE s.f.toNat 4 ++ bytesBE s.g.toNat 4 ++ bytesBE s.h.toNat 4

end Sha

/-- `SHA256(m)`: a byte string to 32 bytes (R252). -/
def sha256 (m : Bytes) : Bytes :=
  let padded := padZeros m ++ bytesBE (8 * m.length) 8
  Sha.output ((pieces 64 (padded.length / 64) padded).foldl Sha.compress Sha.initial)

namespace Ripemd

/-- `RL`, the word selection of the left line (R253). -/
def wordLeft : List Nat :=
  [0, 1, 2, 3, 4, 5, 6, 7, 8, 9, 10, 11, 12, 13, 14, 15] ++
  [7, 4, 13, 1, 10, 6, 15, 3, 12, 0, 9, 5, 2, 14, 11, 8] ++
  [3, 10, 14, 4, 9, 15, 8, 1, 2, 7, 0, 6, 13, 11, 5, 12] ++
  [1, 9, 11, 10, 0, 8, 12, 4, 13, 3, 7, 15, 14, 5, 6, 2] ++
  [4, 0, 5, 9, 7, 12, 2, 10, 14, 1, 3, 8, 11, 6, 15, 13]

/-- `RR`, the word selection of the right line (R253). -/
def wordRight : List Nat :=
  [5, 14, 7, 0, 9, 2, 11, 4, 13, 6, 15, 8, 1, 10, 3, 12] ++
  [6, 11, 3, 7, 0, 13, 5, 10, 14, 15, 8, 12, 4, 9, 1, 2] ++
  [15, 5, 1, 3, 7, 14, 6, 9, 11, 8, 12, 2, 10, 0, 4, 13] ++
  [8, 6, 4, 1, 3, 11, 15, 0, 5, 12, 2, 13, 9, 7, 10, 14] ++
  [12, 15, 10, 4, 1, 5, 8, 7, 6, 2, 13, 14, 0, 3, 9, 11]

/-- `SL`, the rotation amounts of the left line (R253). -/
def shiftLeft : List Nat :=
  [11, 14, 15, 12, 5, 8, 7, 9, 11, 13, 14, 15, 6, 7, 9, 8] ++
  [7, 6, 8, 13, 11, 9, 7, 15, 7, 12, 15, 9, 11, 7, 13, 12] ++
  [11, 13, 6, 7, 14, 9, 13, 15, 14, 8, 13, 6, 5, 12, 7, 5] ++
  [11, 12, 14, 15, 14, 15, 9, 8, 9, 14, 5, 6, 8, 6, 5, 12] ++
  [9, 15, 5, 11, 6, 8, 13, 12, 5, 12, 13, 14, 11, 8, 5, 6]

/-- `SR`, the rotation amounts of the right line (R253). -/
def shiftRight : List Nat :=
  [8, 9, 9, 11, 13, 15, 15, 5, 7, 7, 8, 11, 14, 14, 12, 6] ++
  [9, 13, 15, 7, 12, 8, 9, 11, 7, 7, 12, 7, 6, 15, 13, 11] ++
  [9, 7, 15, 11, 8, 6, 6, 14, 12, 13, 5, 14, 13, 13, 7, 5] ++
  [15, 5, 8, 11, 14, 14, 6, 14, 6, 9, 12, 9, 12, 5, 15, 8] ++
  [8, 5, 12, 9, 12, 5, 14, 6, 8, 13, 6, 5, 15, 13, 11, 11]

/-- `KL`, the constants of the left line by `j div 16` (R253). -/
def constLeft : List Word32 := [0x00000000, 0x5A827999, 0x6ED9EBA1, 0x8F1BBCDC, 0xA953FD4E]

/-- `KR`, the constants of the right line by `j div 16` (R253). -/
def constRight : List Word32 := [0x50A28BE6, 0x5C4DD124, 0x6D703EF3, 0x7A6D76E9, 0x00000000]

/-- The state of one line `(A, B, C, D, E)`, or `h[0..5)` (R253). -/
structure Line where
  (a b c d e : Word32)
deriving DecidableEq, Repr

/-- The initial state `h[0..5)` (R253). -/
def initial : Line := ⟨0x67452301, 0xEFCDAB89, 0x98BADCFE, 0x10325476, 0xC3D2E1F0⟩

/-- The round function `f(j, x, y, z)` (R253). -/
def f (j : Nat) (x y z : Word32) : Word32 :=
  if j ≤ 15 then x ^^^ y ^^^ z
  else if j ≤ 31 then (x &&& y) ||| (~~~x &&& z)
  else if j ≤ 47 then (x ||| ~~~y) ^^^ z
  else if j ≤ 63 then (x &&& z) ||| (y &&& ~~~z)
  else x ^^^ (y ||| ~~~z)

/-- One round of a line with function index `fj`, message word `xw`, constant `k` and rotation `s` (R253). -/
def round (fj : Nat) (xw k : Word32) (s : Nat) (l : Line) : Line :=
  ⟨l.e, rotl (l.a + f fj l.b l.c l.d + xw + k) s + l.e, l.b, rotl l.c 10, l.d⟩

/-- Round `j` of the left line on the message words `xs` (R253). -/
def roundLeft (xs : List Word32) (l : Line) (j : Nat) : Line :=
  round j (xs.getD (wordLeft.getD j 0) 0) (constLeft.getD (j / 16) 0) (shiftLeft.getD j 0) l

/-- Round `j` of the right line on the message words `xs` (R253). -/
def roundRight (xs : List Word32) (l : Line) (j : Nat) : Line :=
  round (79 - j) (xs.getD (wordRight.getD j 0) 0) (constRight.getD (j / 16) 0) (shiftRight.getD j 0) l

/-- The 80 rounds of both lines on a block and the final additions (R253). -/
def compress (h : Line) (block : Bytes) : Line :=
  let xs := (pieces 4 16 block).map (fun b => BitVec.ofNat 32 (intLE b))
  let l := (List.range 80).foldl (roundLeft xs) h
  let r := (List.range 80).foldl (roundRight xs) h
  ⟨h.b + l.c + r.d, h.c + l.d + r.e, h.d + l.e + r.a, h.e + l.a + r.b, h.a + l.b + r.c⟩

/-- `bytes_le(h[0],4) ‖ ... ‖ bytes_le(h[4],4)` (R253). -/
def output (h : Line) : Bytes :=
  bytesLE h.a.toNat 4 ++ bytesLE h.b.toNat 4 ++ bytesLE h.c.toNat 4 ++ bytesLE h.d.toNat 4 ++
  bytesLE h.e.toNat 4

end Ripemd

/-- `RIPEMD160(m)`: a byte string to 20 bytes (R253). -/
def ripemd160 (m : Bytes) : Bytes :=
  let padded := padZeros m ++ bytesLE (8 * m.length) 8
  Ripemd.output ((pieces 64 (padded.length / 64) padded).foldl Ripemd.compress Ripemd.initial)

/-- `HMAC(key, msg)`, HMAC-SHA256 with its block of 64 bytes (R254). -/
def hmac (key msg : Bytes) : Bytes :=
  let k0 := if key.length > 64 then sha256 key else key
  let k0 := k0 ++ List.replicate (64 - k0.length) 0
  sha256 (k0.map (· ^^^ 0x5C) ++ sha256 (k0.map (· ^^^ 0x36) ++ msg))

/-- "hash256", `SHA256(SHA256(m))`, 32 bytes (R250). -/
def hash256 (m : Bytes) : Bytes := sha256 (sha256 m)

/-- "hash160", `RIPEMD160(SHA256(m))`, 20 bytes (R185, R251). -/
def hash160 (m : Bytes) : Bytes := ripemd160 (sha256 m)

end Sys2Proof.Machine
end

