-- ==== Sys2Proof/Machine/Base58Functions.lean ====
section
/-!
DEFINITION. Base58 and Base58Check on byte strings (45_base58 R230 to R238).
-/

namespace Sys2Proof.Machine

namespace Base58

/-- The ASCII codes of the 58 characters of `ALPH`, in the order of their digit values (R230, R231). -/
def alphabet : Bytes :=
  ((List.range' 0x31 9) ++ (List.range' 0x41 8) ++ (List.range' 0x4A 5) ++ (List.range' 0x50 11) ++
   (List.range' 0x61 11) ++ (List.range' 0x6D 14)).map (BitVec.ofNat 8)

/-- `val(c)`: the digit value of the character with code `c`, undefined for the other 198 bytes (R231). -/
def val (c : Byte) : Option Nat := alphabet.findIdx? (· == c)

/-- `chr(v)`: the code of the character of value `v` in 0..57 (R231). -/
def chr (v : Nat) : Byte := alphabet.getD v 0

/-- The base-58 digits of `v`, most significant first, no leading zero digit, none for 0 (R232), in front of
`acc`; `fuel` bounds their number. -/
def digits : Nat → Nat → List Nat → List Nat
  | 0, _, acc => acc
  | fuel + 1, v, acc => if v = 0 then acc else digits fuel (v / 58) (v % 58 :: acc)

/-- `b58enc(m)` (R232). A value below `256^n` has at most `2·n` base-58 digits, since `256 ≤ 58²`
(log entry 21). -/
def encode (m : Bytes) : Bytes :=
  List.replicate (leading 0 m) (chr 0) ++ (digits (2 * m.length) (intBE m) []).map chr

/-- `Σ val(t[i])·58^(|t|-1-i)` over digit values (R234). -/
def value (ds : List Nat) : Nat := ds.foldl (fun acc d => acc * 58 + d) 0

/-- `b58dec(t)`, or `E_B58_CHAR` (R234). -/
def decode (t : Bytes) : Except ErrCode Bytes :=
  match t.mapM val with
  | none => .error .b58Char
  | some ds => .ok (List.replicate (leading (chr 0) t) 0 ++ strip0 (bytesBE (value ds) t.length))

/-- `SHA256(SHA256(p))[0..4)` (R236). -/
def checksum (p : Bytes) : Bytes := (hash256 p).take 4

/-- `b58check(p)` (R236). -/
def checkEncode (p : Bytes) : Bytes := encode (p ++ checksum p)

/-- `b58uncheck(t)`, or its first failing check (R236). -/
def checkDecode (t : Bytes) : Except ErrCode Bytes :=
  match decode t with
  | .error e => .error e
  | .ok d =>
    if d.length < 4 then .error .badLength
    else if checksum (d.take (d.length - 4)) ≠ d.drop (d.length - 4) then .error .b58Checksum
    else .ok (d.take (d.length - 4))

end Base58

end Sys2Proof.Machine
end

