-- ==== Sys2Proof/Machine/Base58.lean ====
section
/-!
DEFINITION. Base58 commands (45_base58 R233 to R238).
-/

namespace Sys2Proof.Machine

/-- An encoded text becomes the message, or `E_BUF_BOUNDS` if it is longer than `BUFSZ = 256` (R233, R237). -/
def setText (s : State) (t : Bytes) : Result := if t.length > 256 then raise s .bufBounds else setMsg s t

/-- B58ENC (R233). -/
def execB58enc (s : State) : Result := setText s (Base58.encode s.msg)

/-- B58DEC (R235). -/
def execB58dec (s : State) : Result := attempt s (Base58.decode s.msg) (setMsg s)

/-- B58CENC (R237). -/
def execB58cenc (s : State) : Result := setText s (Base58.checkEncode s.msg)

/-- B58CDEC (R238). -/
def execB58cdec (s : State) : Result := attempt s (Base58.checkDecode s.msg) (setMsg s)

end Sys2Proof.Machine
end

