-- ==== Sys2Proof/Machine/FieldFunctions.lean ====
section
/-!
DEFINITION. Arithmetic over `F_PRIME` (41_field R120 to R133) and the Montgomery product that R142 relates to
it. All operands are integers; nothing wraps at `2^256` (R133).
-/

namespace Sys2Proof.Machine

/-- The square-and-multiply loop of `powMod`: `fuel` bits of the exponent are left. -/
def powLoop (m : Nat) : Nat → Nat → Nat → Nat → Nat
  | 0, _, _, acc => acc
  | fuel + 1, b, e, acc => powLoop m fuel (b * b % m) (e / 2) (if e % 2 = 1 then acc * b % m else acc)

/-- `a^e mod m` (R126, R128, R129, R201), by square and multiply; DEDUCED, log entry 14: the value is
`a ^ e % m`, which the lemma `powMod_eq` proves. -/
def powMod (a e m : Nat) : Nat := powLoop m (e.log2 + 1) (a % m) e (1 % m)

namespace Fp

open Config (prime)

/-- `add(a, b) = (a + b) mod PRIME` (R122). -/
def add (a b : Nat) : Nat := (a + b) % prime

/-- `additive_inverse(a)`, the inverse of 0 being 0 (R124). -/
def neg (a : Nat) : Nat := if a = 0 then 0 else prime - a

/-- `sub(a, b) = add(a, additive_inverse(b))` (R123). -/
def sub (a b : Nat) : Nat := add a (neg b)

/-- `mul(a, b) = (a·b) mod PRIME`, on the exact product (R125). -/
def mul (a b : Nat) : Nat := a * b % prime

/-- `a^(PRIME-2) mod PRIME`, the multiplicative inverse of `a ≠ 0` (R126). -/
def inv (a : Nat) : Nat := powMod a (prime - 2) prime

/-- `div(a, b) = mul(a, mul_inv(b))` for `b ≠ 0` (R127). -/
def div (a b : Nat) : Nat := mul a (inv b)

/-- The exponent of FPOW: `m`, or `(-m) mod (PRIME - 1)` with the Euclidean remainder (R128). -/
def exponent (neg : Bool) (m : Nat) : Nat :=
  if neg then ((-(m : Int)) % ((prime : Int) - 1)).toNat else m

/-- `pow(a, e)` (R128): `a^0 = 1` for every `a`. -/
def pow (a : Nat) (negative : Bool) (m : Nat) : Nat := powMod a (exponent negative m) prime

/-- `sqrt(a) = a^((PRIME+1) div 4) mod PRIME`, a root when there is one (R129). -/
def sqrt (a : Nat) : Nat := powMod a ((prime + 1) / 4) prime

/-- `R^(-1) mod PRIME` for the radix `R = 2^256`, R142's constant. -/
def montRadixInv : Nat := 0xC9BD1905155383999C46C2C295F2B761BCB223FEDC24A059D838091D0868192A

/-- `R² mod PRIME`, R142's constant. -/
def montRadixSq : Nat := 0x1000007A2000E90A1

/-- `MonPro(u, v) = (u·v·R^(-1)) mod PRIME`. Informative (R142): no command uses it; it is here so that the
identity R142 states can be proved against `mul`. -/
def monPro (u v : Nat) : Nat := u * v * montRadixInv % prime

end Fp

end Sys2Proof.Machine
end

