-- ==== Sys2Proof/Machine/CurveFunctions.lean ====
section
/-!
DEFINITION. The curve `y² = x³ + 7` and its group law on point values (42_curve R150 to R159).
-/

namespace Sys2Proof.Machine

open Config (prime curveA curveB)

/-- `contains(x, y)` for integers `x`, `y` (R150). -/
def contains (x y : Nat) : Bool :=
  let x := x % prime
  let y := y % prime
  Fp.mul y y == Fp.add (Fp.add (Fp.mul (Fp.mul x x) x) (Fp.mul curveA x)) curveB

/-- A normal point with the coordinates `x`, `y`. -/
def mkPoint (x y : Nat) : Point := .pt (BitVec.ofNat 256 x) (BitVec.ofNat 256 y)

/-- `G = Pt(GX, GY)`, the base point (R9, R153). -/
def basePoint : Point := mkPoint Config.gx Config.gy

/-- Case 4 of `padd` (R156): the doubling of `(x1, y1)` with `y1 ≠ 0`. -/
def doublePoint (x1 y1 : Nat) : Point :=
  let m := Fp.div (Fp.add (Fp.mul 3 (Fp.mul x1 x1)) curveA) (Fp.mul 2 y1)
  let x3 := Fp.sub (Fp.mul m m) (Fp.mul 2 x1)
  let y3 := Fp.sub (Fp.mul m (Fp.sub x1 x3)) y1
  mkPoint x3 y3

/-- Case 5 of `padd` (R156): the sum of two points with `x1 ≠ x2`. -/
def chordPoint (x1 y1 x2 y2 : Nat) : Point :=
  let m := Fp.div (Fp.sub y2 y1) (Fp.sub x2 x1)
  let x3 := Fp.sub (Fp.sub (Fp.mul m m) x1) x2
  let y3 := Fp.sub (Fp.mul m (Fp.sub x1 x3)) y1
  mkPoint x3 y3

/-- `padd(P, Q)`, the five cases of R156 in their order. -/
def padd : Point → Point → Point
  | .inf, q => q
  | p, .inf => p
  | .pt x1 y1, .pt x2 y2 =>
    if x1 = x2 ∧ y1 ≠ y2 then .inf
    else if x1 = x2 ∧ y1 = y2 ∧ y1 = 0 then .inf
    else if x1 = x2 ∧ y1 = y2 then doublePoint x1.toNat y1.toNat
    else chordPoint x1.toNat y1.toNat x2.toNat y2.toNat

/-- The double-and-add loop of `pmul` (R158); `fuel` bits of the scalar may be left. -/
def pmulLoop : Nat → Nat → Point → Point → Point
  | 0, _, _, result => result
  | fuel + 1, k, current, result =>
    if k = 0 then result
    else pmulLoop fuel (k / 2) (padd current current) (if k % 2 = 1 then padd result current else result)

/-- `pmul(k, P)` (R158): the scalar is reduced modulo `N` (D22); the loop runs at most 256 times. -/
def pmul (k : Nat) (p : Point) : Point := pmulLoop 256 (k % Config.order) p .inf

/-- The invariant of a point value (R25): `Inf`, or reduced coordinates on the curve. -/
def Point.valid : Point → Bool
  | .inf => true
  | .pt x y => decide (x.toNat < prime) && decide (y.toNat < prime) && contains x.toNat y.toNat

end Sys2Proof.Machine
end

