-- ==== Sys2Proof/Machine/Curve.lean ====
section
/-!
DEFINITION. Curve commands (42_curve R151 to R163).
-/

namespace Sys2Proof.Machine

/-- PCONT (R151). -/
def execPcont (rd rs1 rs2 : XReg) (s : State) : Result :=
  finishX s rd (truth (contains (s.xNat rs1) (s.xNat rs2)))

/-- PNEW (R152): the reduced coordinates, if they are on the curve, else `E_NOT_ON_CURVE`. -/
def execPnew (rd : PReg) (rs1 rs2 : XReg) (s : State) : Result :=
  if contains (s.fe rs1) (s.fe rs2) then finishP s rd (mkPoint (s.fe rs1) (s.fe rs2))
  else raise s .notOnCurve

/-- PINF (R154). -/
def execPinf (rd : PReg) (s : State) : Result := finishP s rd .inf

/-- PLDG (R153). -/
def execPldg (rd : PReg) (s : State) : Result := finishP s rd basePoint

/-- PMOV (R155). -/
def execPmov (rd rs1 : PReg) (s : State) : Result := finishP s rd (s.readP rs1)

/-- PADD (R157). -/
def execPadd (rd rs1 rs2 : PReg) (s : State) : Result := finishP s rd (padd (s.readP rs1) (s.readP rs2))

/-- PMUL (R159). -/
def execPmul (rd rs1 : PReg) (rs2 : XReg) (s : State) : Result :=
  finishP s rd (pmul (s.xNat rs2) (s.readP rs1))

/-- PEQ (R160): structural equality (R26). -/
def execPeq (rd : XReg) (rs1 rs2 : PReg) (s : State) : Result :=
  finishX s rd (truth (decide (s.readP rs1 = s.readP rs2)))

/-- PISINF (R161). -/
def execPisinf (rd : XReg) (rs1 : PReg) (s : State) : Result :=
  finishX s rd (truth (decide (s.readP rs1 = .inf)))

/-- PGETX (R162): `E_NO_COORD` on the identity. -/
def execPgetx (rd : XReg) (rs1 : PReg) (s : State) : Result :=
  match s.readP rs1 with
  | .inf => raise s .noCoord
  | .pt x _ => finishX s rd x

/-- PGETY (R163): `E_NO_COORD` on the identity. -/
def execPgety (rd : XReg) (rs1 : PReg) (s : State) : Result :=
  match s.readP rs1 with
  | .inf => raise s .noCoord
  | .pt _ y => finishX s rd y

end Sys2Proof.Machine
end

