-- ==== Sys2Proof/Machine/EcdsaFunctions.lean ====
section
/-!
DEFINITION. Digest, nonce generator, signing, verifying and the DER codec as functions (44_ecdsa R200 to R216).
-/

namespace Sys2Proof.Machine

open Config (order)

/-- `digest_z(m)`, or `E_BAD_LENGTH`: one conditional subtraction of `N` (R200). -/
def digestZ (m : Bytes) : Except ErrCode Nat :=
  if m.length ≠ 32 then .error .badLength
  else .ok (if intBE m ≥ order then intBE m - order else intBE m)

/-- `inv_N(a)` for `a mod N ≠ 0` (R201), by `a^(N-2) mod N`; DEDUCED, log entry 13. -/
def invN (a : Nat) : Nat := powMod a (order - 2) order

/-- One initial round of the nonce generator with separator byte `sep` (R203). -/
def nonceRound (sep : Byte) (db zb : Bytes) (l : NonceLoop) : NonceLoop :=
  let k := hmac l.k (l.v ++ [sep] ++ db ++ zb)
  ⟨k, hmac k l.v⟩

/-- `K` and `V` before the first candidate, from the secret `d` and the digest `z` (R203). -/
def nonceSeed (d z : Nat) : NonceLoop :=
  let db := bytesBE d 32
  let zb := bytesBE z 32
  nonceRound 0x01 db zb (nonceRound 0x00 db zb ⟨List.replicate 32 0x00, List.replicate 32 0x01⟩)

/-- `V` of the next candidate, `HMAC(K, V)` (R203). -/
def nonceBytes (l : NonceLoop) : Bytes := hmac l.k l.v

/-- The next candidate `c = int_be(V)` (R203). -/
def nonceCandidate (l : NonceLoop) : Nat := intBE (nonceBytes l)

/-- "accept if in `[1, N)`" (R203). -/
def nonceAccepted (c : Nat) : Bool := decide (1 ≤ c) && decide (c < order)

/-- The retry after a candidate that was not accepted (R203). -/
def nonceRetry (l : NonceLoop) : NonceLoop :=
  let v := nonceBytes l
  let k := hmac l.k (v ++ [0x00])
  ⟨k, hmac k v⟩

/-- `r = R.x` of `R = k·G` (R205), never `Inf` for `1 ≤ k < N`; log entry 12. -/
def signR (k : Nat) : Word :=
  match pmul k basePoint with
  | .pt x _ => x
  | .inf => Config.identityX k

/-- `s` of R205 for `r`, with the low-s step. -/
def signS (d z k r : Nat) : Nat :=
  let s := (z + r * d) * invN k % order
  if s > order / 2 then order - s else s

/-- `verify(Q, m, r, s)` for a digest value `z = int_be(m)` (R207). -/
def verifyDigest (q : Point) (z r s : Nat) : Bool :=
  if s % order = 0 then false
  else
    let si := invN (s % order)
    let u := z * si % order
    let v := r * si % order
    match padd (pmul u basePoint) (pmul v q) with
    | .inf => false
    | .pt x _ => x.toNat == r

/-- `verify(Q, m, r, s)`, or `E_BAD_LENGTH` (R207). -/
def verify (q : Point) (m : Bytes) (r s : Nat) : Except ErrCode Bool :=
  if m.length ≠ 32 then .error .badLength else .ok (verifyDigest q (intBE m) r s)

namespace Der

/-- The content bytes of `der_int(v)` (R210). -/
def content (v : Nat) : Bytes :=
  let b := strip0 (bytesBE v 32)
  if b.headD 0 ≥ 0x80 then 0x00 :: b else b

/-- `der_int(v) = [0x02, |b|] ‖ b` (R210). -/
def int (v : Nat) : Bytes := 0x02 :: BitVec.ofNat 8 (content v).length :: content v

/-- `der_enc(r, s)` (R211). -/
def encode (r s : Nat) : Bytes :=
  0x30 :: BitVec.ofNat 8 ((int r).length + (int s).length) :: (int r ++ int s)

/-- `read(n)` of R214 on the bytes that are left, and what is left after it (log entry 20). -/
def read (n : Nat) (rest : Bytes) : Except ErrCode (Bytes × Bytes) :=
  if rest.length < n then .error .derLength else .ok (rest.take n, rest.drop n)

/-- `read(1)[0]` (R214). -/
def readByte (rest : Bytes) : Except ErrCode (Byte × Bytes) :=
  match rest with
  | [] => .error .derLength
  | b :: rest => .ok (b, rest)

/-- One component: its marker, its length byte and its bytes (R214). -/
def component (rest : Bytes) : Except ErrCode (Bytes × Bytes) := do
  let (marker, rest) ← readByte rest
  if marker ≠ 0x02 then .error .derMarker
  else
    let (n, rest) ← readByte rest
    read n.toNat rest

/-- `der_dec(m)`, or the first failing check in reading order, `E_ENC_OVERFLOW` last (R214, R216). -/
def decode (m : Bytes) : Except ErrCode (Nat × Nat) := do
  let (tag, rest) ← readByte m
  if tag ≠ 0x30 then .error .derCompound
  else
    let (l, rest) ← readByte rest
    if l.toNat + 2 ≠ m.length then .error .derLength
    else
      let (rb, rest) ← component rest
      let (sb, rest) ← component rest
      if rest ≠ [] then .error .derLength
      else if intBE rb ≥ 2 ^ 256 ∨ intBE sb ≥ 2 ^ 256 then .error .encOverflow
      else .ok (intBE rb, intBE sb)

end Der

end Sys2Proof.Machine
end

