-- ==== Sys2Proof/Machine/Ecdsa.lean ====
section
/-!
DEFINITION. ECDSA and DER commands (44_ecdsa R204 to R216).
-/

namespace Sys2Proof.Machine

/-- The candidate loop that NONCE and SIGN share (R203, R340), one candidate a step: the digest check, then the
candidate of the loop that is running (or of a fresh seed); an accepted candidate `k` goes on with the digest
value `z`, and otherwise the command stays busy with the loop's state whitened again. Log entry 3. -/
def withNonce (s : State) (d : Word) (accept : Nat → Nat → Result) : Result :=
  attempt s (digestZ s.msg) fun z =>
    let l := s.nonceLoop.getD (nonceSeed d.toNat z)
    if nonceAccepted (nonceCandidate l) then accept z (nonceCandidate l)
    else .next { s with nonceLoop := some (nonceRetry l) }

/-- NONCE (R204): `X[rd] <- nonce(X[rs1], MSG)`. -/
def execNonce (rd rs1 : XReg) (s : State) : Result :=
  withNonce s (s.readX rs1) fun _ k => finishX s rd (word k)

/-- SIGN (R205, R206): `X[rd] <- r; X[rs3] <- s`; equal destinations are illegal (R77 case (e)). -/
def execSign (rd rs3 rs1 : XReg) (s : State) : Result :=
  if rd = rs3 then raise s .illegalCmd
  else
    withNonce s (s.readX rs1) fun z k =>
      finishX (s.writeX rd (signR k)) rs3 (word (signS (s.xNat rs1) z k (signR k).toNat))

/-- VERIFY (R207, R209): an invalid signature is a result, not a fault. -/
def execVerify (rd : XReg) (rs3 : PReg) (rs1 rs2 : XReg) (s : State) : Result :=
  attempt s (verify (s.readP rs3) s.msg (s.xNat rs1) (s.xNat rs2)) fun b => finishX s rd (truth b)

/-- DERENC (R213). -/
def execDerenc (rs1 rs2 : XReg) (s : State) : Result := setMsg s (Der.encode (s.xNat rs1) (s.xNat rs2))

/-- DERDEC (R215): `X[rd] <- r; X[rs3] <- s`; equal destinations are illegal (R77 case (e)). -/
def execDerdec (rd rs3 : XReg) (s : State) : Result :=
  if rd = rs3 then raise s .illegalCmd
  else attempt s (Der.decode s.msg) fun rs => finishX (s.writeX rd (word rs.1)) rs3 (word rs.2)

end Sys2Proof.Machine
end

