-- ==== Sys2Proof/Machine/Field.lean ====
section
/-!
DEFINITION. Field commands (41_field R121 to R131). Sources are read as field elements (R120).
-/

namespace Sys2Proof.Machine

/-- FRED (R121). -/
def execFred (rd rs1 : XReg) (s : State) : Result := finishX s rd (word (s.fe rs1))

/-- FADD (R122). -/
def execFadd (rd rs1 rs2 : XReg) (s : State) : Result := finishX s rd (word (Fp.add (s.fe rs1) (s.fe rs2)))

/-- FSUB (R123). -/
def execFsub (rd rs1 rs2 : XReg) (s : State) : Result := finishX s rd (word (Fp.sub (s.fe rs1) (s.fe rs2)))

/-- FNEG (R124). -/
def execFneg (rd rs1 : XReg) (s : State) : Result := finishX s rd (word (Fp.neg (s.fe rs1)))

/-- FMUL (R125). -/
def execFmul (rd rs1 rs2 : XReg) (s : State) : Result := finishX s rd (word (Fp.mul (s.fe rs1) (s.fe rs2)))

/-- FINV (R126): `E_INV_ZERO` when the source is 0 as a field element. -/
def execFinv (rd rs1 : XReg) (s : State) : Result :=
  if s.fe rs1 = 0 then raise s .invZero else finishX s rd (word (Fp.inv (s.fe rs1)))

/-- FDIV (R127): `E_INV_ZERO` when the divisor is 0 as a field element, whatever the dividend is. -/
def execFdiv (rd rs1 rs2 : XReg) (s : State) : Result :=
  if s.fe rs2 = 0 then raise s .invZero else finishX s rd (word (Fp.div (s.fe rs1) (s.fe rs2)))

/-- FPOW (R128): the exponent's magnitude is all of `X[rs2]`, its sign the flag `S`. -/
def execFpow (rd rs1 rs2 : XReg) (neg : Bool) (s : State) : Result :=
  finishX s rd (word (Fp.pow (s.fe rs1) neg (s.xNat rs2)))

/-- FSQRT (R129): the formula's candidate; no test that the source is a square. -/
def execFsqrt (rd rs1 : XReg) (s : State) : Result := finishX s rd (word (Fp.sqrt (s.fe rs1)))

/-- FISZ (R130). -/
def execFisz (rd rs1 : XReg) (s : State) : Result := finishX s rd (truth (s.fe rs1 == 0))

/-- FEQ (R131). -/
def execFeq (rd rs1 rs2 : XReg) (s : State) : Result := finishX s rd (truth (s.fe rs1 == s.fe rs2))

end Sys2Proof.Machine
end

