-- ==== Sys2Proof/Machine/Hashes.lean ====
section
/-!
DEFINITION. Hash commands (46_hash R250, R251).
-/

namespace Sys2Proof.Machine

/-- H256 (R250). -/
def execH256 (s : State) : Result := setMsg s (hash256 s.msg)

/-- H160 (R251). -/
def execH160 (s : State) : Result := setMsg s (hash160 s.msg)

end Sys2Proof.Machine
end

