-- ==== Sys2Proof/Machine/KeyFunctions.lean ====
section
/-!
DEFINITION. The SEC point codec, the address and the WIF payload (43_keys R181 to R187).
-/

namespace Sys2Proof.Machine

open Config (prime)

/-- `sec(Q, c)`, or `E_SER_IDENTITY` (R181). -/
def sec (q : Point) (c : Bool) : Except ErrCode Bytes :=
  match q with
  | .inf => .error .serIdentity
  | .pt x y =>
    .ok (if c then (if y.toNat % 2 = 0 then 0x02 else 0x03) :: bytesBE x.toNat 32
         else 0x04 :: (bytesBE x.toNat 32 ++ bytesBE y.toNat 32))

/-- The 65-byte form of `secdec` (R183). -/
def secdecUncompressed (m : Bytes) : Except ErrCode Point :=
  if m.getD 0 0 ≠ 0x04 then .error .secTag
  else
    let x := intBE ((m.drop 1).take 32) % prime
    let y := intBE ((m.drop 33).take 32) % prime
    if contains x y then .ok (mkPoint x y) else .error .notOnCurve

/-- The 33-byte form of `secdec` (R183). -/
def secdecCompressed (m : Bytes) : Except ErrCode Point :=
  if m.getD 0 0 ≠ 0x02 ∧ m.getD 0 0 ≠ 0x03 then .error .secTag
  else
    let x := intBE ((m.drop 1).take 32) % prime
    let alpha := Fp.add (Fp.mul (Fp.mul x x) x) Config.curveB
    let beta := Fp.sqrt alpha
    let even := m.getD 0 0 == 0x02
    let y := if (beta % 2 == 0) = even then beta else (prime - beta) % prime
    if contains x y then .ok (mkPoint x y) else .error .notOnCurve

/-- `secdec(m)`: the form is chosen by the length (R183). -/
def secdec (m : Bytes) : Except ErrCode Point :=
  if m.length = 65 then secdecUncompressed m
  else if m.length = 33 then secdecCompressed m
  else .error .badLength

/-- `ver_addr(T)` (R185). -/
def verAddr (t : Bool) : Byte := if t then Config.verAddrTest else Config.verAddrMain

/-- `ver_wif(T)` (R185). -/
def verWif (t : Bool) : Byte := if t then Config.verWifTest else Config.verWifMain

/-- The address text of a SEC string (R186). -/
def addressText (s : Bytes) (t : Bool) : Bytes := Base58.checkEncode (verAddr t :: hash160 s)

/-- The WIF text of a secret (R187). -/
def wifText (secret : Word) (c t : Bool) : Bytes :=
  Base58.checkEncode (verWif t :: (bytesBE secret.toNat 32 ++ if c then [0x01] else []))

end Sys2Proof.Machine
end

