-- ==== Sys2Proof/Machine/Keys.lean ====
section
/-!
DEFINITION. Key commands (43_keys R180 to R187).
-/

namespace Sys2Proof.Machine

/-- KEYGEN (R180): `P[rd] <- pmul(X[rs1], G)`; the secret stays in `X[rs1]` and is not validated. -/
def execKeygen (rd : PReg) (rs1 : XReg) (s : State) : Result :=
  finishP s rd (pmul (s.xNat rs1) basePoint)

/-- SECENC (R182). -/
def execSecenc (rs1 : PReg) (c : Bool) (s : State) : Result :=
  attempt s (sec (s.readP rs1) c) (setMsg s)

/-- SECDEC (R184): `BUF` and `LEN` unchanged. -/
def execSecdec (rd : PReg) (s : State) : Result := attempt s (secdec s.msg) (finishP s rd)

/-- ADDR (R186): the input message is not read. -/
def execAddr (rs1 : PReg) (c t : Bool) (s : State) : Result :=
  attempt s (sec (s.readP rs1) c) fun bs => setMsg s (addressText bs t)

/-- WIF (R187): the secret is not reduced and not validated. -/
def execWif (rs1 : XReg) (c t : Bool) (s : State) : Result := setMsg s (wifText (s.readX rs1) c t)

end Sys2Proof.Machine
end

