-- ==== Sys2Proof/Machine/Move.lean ====
section
/-!
DEFINITION. Move, constant and buffer commands (40_move_system R100 to R109).
-/

namespace Sys2Proof.Machine

/-- NOP (R100). -/
def execNop (s : State) : Result := finish s

/-- LI (R101): `X[rd] <- imm16`, all 256 bits. -/
def execLi (rd : XReg) (imm16 : BitVec 16) (s : State) : Result := finishX s rd (immediate imm16)

/-- LDC (R102): `X[rd] <- CONST[imm16]`; an index above 5 is illegal (R77 case (d)). -/
def execLdc (rd : XReg) (imm16 : BitVec 16) (s : State) : Result :=
  match constant imm16.toNat with
  | some v => finishX s rd v
  | none => raise s .illegalCmd

/-- MOV (R103). -/
def execMov (rd rs1 : XReg) (s : State) : Result := finishX s rd (s.readX rs1)

/-- SETLEN (R104): `LEN <- imm16`, `BUF` unchanged; above 256 illegal (R77 case (d)). -/
def execSetlen (imm16 : BitVec 16) (s : State) : Result :=
  if h : imm16.toNat ≤ 256 then finish { s with len := ⟨imm16.toNat, Nat.lt_succ_of_le h⟩ }
  else raise s .illegalCmd

/-- GETLEN (R109). -/
def execGetlen (rd : XReg) (s : State) : Result := finishX s rd (word s.len.val)

/-- LDBE (R105, R106). -/
def execLdbe (rd : XReg) (off : BitVec 8) (len : BitVec 6) (s : State) : Result :=
  withWindow s off len fun bs => finishX s rd (word (intBE bs))

/-- LDLE (R105, R107). -/
def execLdle (rd : XReg) (off : BitVec 8) (len : BitVec 6) (s : State) : Result :=
  withWindow s off len fun bs => finishX s rd (word (intLE bs))

/-- STBE (R105, R108): the bounds check, then the overflow check, then the store; `LEN` is unchanged. -/
def execStbe (rd : XReg) (off : BitVec 8) (len : BitVec 6) (s : State) : Result :=
  if len.toNat > 32 then raise s .illegalCmd
  else
    match s.memWrite off.toNat (bytesBE (s.xNat rd) len.toNat) with
    | none => raise s .bufBounds
    | some t => if s.xNat rd ≥ 256 ^ len.toNat then raise s .encOverflow else finish t

end Sys2Proof.Machine
end

