-- ==== Sys2Proof/Machine/Dispatch.lean ====
section
/-!
DEFINITION. `Exec(d)` of 30_encoding R70: one arm per command of R76, each a direct call of its meaning.
-/

namespace Sys2Proof.Machine

def exec (i : Instr) (s : State) : Host.Outcome State Fault Refusal :=
  match i with
  | .nop => Sys2Proof.Machine.execNop s
  | .li rd imm16 => Sys2Proof.Machine.execLi rd imm16 s
  | .ldc rd imm16 => Sys2Proof.Machine.execLdc rd imm16 s
  | .mov rd rs1 => Sys2Proof.Machine.execMov rd rs1 s
  | .setlen imm16 => Sys2Proof.Machine.execSetlen imm16 s
  | .getlen rd => Sys2Proof.Machine.execGetlen rd s
  | .ldbe rd off len => Sys2Proof.Machine.execLdbe rd off len s
  | .ldle rd off len => Sys2Proof.Machine.execLdle rd off len s
  | .stbe rd off len => Sys2Proof.Machine.execStbe rd off len s
  | .fred rd rs1 => Sys2Proof.Machine.execFred rd rs1 s
  | .fadd rd rs1 rs2 => Sys2Proof.Machine.execFadd rd rs1 rs2 s
  | .fsub rd rs1 rs2 => Sys2Proof.Machine.execFsub rd rs1 rs2 s
  | .fneg rd rs1 => Sys2Proof.Machine.execFneg rd rs1 s
  | .fmul rd rs1 rs2 => Sys2Proof.Machine.execFmul rd rs1 rs2 s
  | .finv rd rs1 => Sys2Proof.Machine.execFinv rd rs1 s
  | .fdiv rd rs1 rs2 => Sys2Proof.Machine.execFdiv rd rs1 rs2 s
  | .fpow rd rs1 rs2 neg => Sys2Proof.Machine.execFpow rd rs1 rs2 neg s
  | .fsqrt rd rs1 => Sys2Proof.Machine.execFsqrt rd rs1 s
  | .fisz rd rs1 => Sys2Proof.Machine.execFisz rd rs1 s
  | .feq rd rs1 rs2 => Sys2Proof.Machine.execFeq rd rs1 rs2 s
  | .pcont rd rs1 rs2 => Sys2Proof.Machine.execPcont rd rs1 rs2 s
  | .pnew rd rs1 rs2 => Sys2Proof.Machine.execPnew rd rs1 rs2 s
  | .pinf rd => Sys2Proof.Machine.execPinf rd s
  | .pldg rd => Sys2Proof.Machine.execPldg rd s
  | .pmov rd rs1 => Sys2Proof.Machine.execPmov rd rs1 s
  | .padd rd rs1 rs2 => Sys2Proof.Machine.execPadd rd rs1 rs2 s
  | .pmul rd rs1 rs2 => Sys2Proof.Machine.execPmul rd rs1 rs2 s
  | .peq rd rs1 rs2 => Sys2Proof.Machine.execPeq rd rs1 rs2 s
  | .pisinf rd rs1 => Sys2Proof.Machine.execPisinf rd rs1 s
  | .pgetx rd rs1 => Sys2Proof.Machine.execPgetx rd rs1 s
  | .pgety rd rs1 => Sys2Proof.Machine.execPgety rd rs1 s
  | .keygen rd rs1 => Sys2Proof.Machine.execKeygen rd rs1 s
  | .secenc rs1 c => Sys2Proof.Machine.execSecenc rs1 c s
  | .secdec rd => Sys2Proof.Machine.execSecdec rd s
  | .addr rs1 c t => Sys2Proof.Machine.execAddr rs1 c t s
  | .wif rs1 c t => Sys2Proof.Machine.execWif rs1 c t s
  | .nonce rd rs1 => Sys2Proof.Machine.execNonce rd rs1 s
  | .sign rd rs3 rs1 => Sys2Proof.Machine.execSign rd rs3 rs1 s
  | .verify rd rs3 rs1 rs2 => Sys2Proof.Machine.execVerify rd rs3 rs1 rs2 s
  | .derenc rs1 rs2 => Sys2Proof.Machine.execDerenc rs1 rs2 s
  | .derdec rd rs3 => Sys2Proof.Machine.execDerdec rd rs3 s
  | .b58enc => Sys2Proof.Machine.execB58enc s
  | .b58dec => Sys2Proof.Machine.execB58dec s
  | .b58cenc => Sys2Proof.Machine.execB58cenc s
  | .b58cdec => Sys2Proof.Machine.execB58cdec s
  | .h256 => Sys2Proof.Machine.execH256 s
  | .h160 => Sys2Proof.Machine.execH160 s

end Sys2Proof.Machine
end

