-- ==== Sys2Proof/Machine/Step.lean ====
section
/-!
DEFINITION. One step of the machine: the host's next interaction, or the core's move (00_scope R12, 20_memory R51,
R60, 30_encoding R70). Log entries 1 and 2.
-/

namespace Sys2Proof.Machine

/-- The core's move: a command that was issued is decoded and executed as one step; an illegal word raises
`E_ILLEGAL_CMD` before any operand is read (R70, R77). An idle core waits for the next write to `CMD` (R332). -/
def coreStep (s : State) : Result :=
  if s.busy then
    match decode s.fetch with
    | .ok i => exec i s
    | .error _ => raise s .illegalCmd
  else .next s

/-- One step: an interaction of the host if one is next, else the core's move. -/
def step (s : State) : Host.Outcome State Fault Refusal :=
  match s.hostOps with
  | [] => coreStep s
  | .wait :: rest => coreStep { s with hostOps := rest }
  | .read off width :: rest => .next ({ s with hostOps := rest }.hostRead off width)
  | .write off width w :: rest => .next ({ s with hostOps := rest }.hostWrite off width w)
  | .reset :: rest => .next { s with hostOps := rest }.hardReset

/-- `s` with the table's instruction issued: its word in `CMD`, `BUSY = 1`, no fault pending, and no host access in
between, so that the next step executes it (R33, R70). Stands for the host's accepted write to `CMD`. -/
def State.withFetchWord (s : State) (nbits w : Nat) : State :=
  { s.clearFault.issue (BitVec.ofNat 32 (w % 2 ^ nbits)) with
    hostOps := match s.hostOps with
      | [] => []
      | op :: rest => .wait :: op :: rest }

end Sys2Proof.Machine
end

