-- ==== Sys2Proof/Safety.lean ====
section
/-!
DEFINITION. What holds of every state the machine should be in: the invariants the spec states (10_state R25, R35;
60_exceptions R302, R309) and those of the model's own data.
-/

namespace Sys2Proof.Machine

/-- Every point register holds a valid point value (R25). -/
def State.pointsValid (s : State) : Prop := ∀ i : PReg, (s.readP i).valid = true

/-- `BUF` is in its canonical form. -/
def State.bufCanonical (s : State) : Prop := Memory.wf s.buf = true

/-- The values of `ERR` that some command or host access writes: 0 and the codes of R301 and R302 but the two
that are never raised. -/
def State.errPossible (s : State) : Prop :=
  s.err = 0 ∨ ∃ e : ErrCode, s.err = e.code ∧ e ≠ .curveMismatch ∧ e ≠ .fieldRange

/-- At most one of `BUSY` and `DONE` is 1 (R35); no command executes while `ERR ≠ 0` (R309); the candidate loop
lives inside a running command (R203). -/
def State.statusOk (s : State) : Prop :=
  ¬ (s.busy = true ∧ s.done = true) ∧ (s.busy = true → s.err = 0) ∧ (s.nonceLoop.isSome = true → s.busy = true)

/-- The running candidate loop holds a 32-byte `K` and a 32-byte `V` (R203, R254). -/
def State.nonceLoopOk (s : State) : Prop :=
  ∀ l : NonceLoop, s.nonceLoop = some l → l.k.length = 32 ∧ l.v.length = 32

/-- The invariant of the whole state. -/
structure State.Inv (s : State) : Prop where
  pointsValid : s.pointsValid
  bufCanonical : s.bufCanonical
  errPossible : s.errPossible
  statusOk : s.statusOk
  nonceLoopOk : s.nonceLoopOk

/-- The machine goes on from `s`: its step is a next state. -/
def State.goesOn (s : State) : Prop := ∃ t, step s = .next t

/-- The state after `n` steps, if each of them is a next state. -/
def run : Nat → State → Option State
  | 0, s => some s
  | n + 1, s =>
    match step s with
    | .next t => run n t
    | .fault _ => none
    | .refused _ => none

/-! ### What a command leaves -/

/-- `BUF[a]` (R28). -/
def State.byte (s : State) (a : Nat) : Byte := Memory.readByte s.buf a

/-- Every X register but those of `d` reads in `t` as in `s`. -/
def State.sameX (s t : State) (d : List XReg) : Prop := ∀ i, i ∉ d → t.readX i = s.readX i

/-- Every P register but those of `d` reads in `t` as in `s`. -/
def State.sameP (s t : State) (d : List PReg) : Prop := ∀ i, i ∉ d → t.readP i = s.readP i

/-- Every byte of `BUF` outside `[k, k + n)` reads in `t` as in `s`. -/
def State.sameBytes (s t : State) (k n : Nat) : Prop := ∀ a, ¬ (k ≤ a ∧ a < k + n) → t.byte a = s.byte a

/-- What no command touches: `CMD`, `IE`, and the model's own fields outside the core. -/
structure State.SameHostSide (s t : State) : Prop where
  cmd : t.cmd = s.cmd
  ie : t.ie = s.ie
  hostOps : t.hostOps = s.hostOps
  reply : t.reply = s.reply
  draws : t.draws = s.draws

/-- The control state after a command that succeeded (R70): `BUSY` 0, `DONE` 1, the fault record as it was. -/
structure State.Completed (s t : State) : Prop extends s.SameHostSide t where
  busy : t.busy = false
  done : t.done = true
  nonceLoop : t.nonceLoop = none
  err : t.err = s.err
  ecmd : t.ecmd = s.ecmd

/-- The state after a command that faulted with `e` (R305). -/
structure State.Faulted (s t : State) (e : ErrCode) : Prop extends s.SameHostSide t where
  err : t.err = e.code
  ecmd : t.ecmd = s.cmd
  busy : t.busy = false
  done : t.done = true
  nonceLoop : t.nonceLoop = none
  x : s.sameX t []
  p : s.sameP t []
  bytes : s.sameBytes t 0 0
  len : t.len = s.len

/-- The command succeeded and wrote nothing. -/
structure State.WritesNothing (s t : State) : Prop extends s.Completed t where
  x : s.sameX t []
  p : s.sameP t []
  bytes : s.sameBytes t 0 0
  len : t.len = s.len

/-- The command succeeded, `X[d]` is now the integer `v`, and that is all it wrote. -/
structure State.WritesX (s t : State) (d : XReg) (v : Nat) : Prop extends s.Completed t where
  value : (t.readX d).toNat = v
  x : s.sameX t [d]
  p : s.sameP t []
  bytes : s.sameBytes t 0 0
  len : t.len = s.len

/-- The command succeeded, `X[d]` and `X[d2]` are now `v` and `v2`, and that is all it wrote. -/
structure State.WritesTwoX (s t : State) (d d2 : XReg) (v v2 : Nat) : Prop extends s.Completed t where
  value : (t.readX d).toNat = v
  value2 : (t.readX d2).toNat = v2
  x : s.sameX t [d, d2]
  p : s.sameP t []
  bytes : s.sameBytes t 0 0
  len : t.len = s.len

/-- The command succeeded, `P[d]` is now `q`, and that is all it wrote. -/
structure State.WritesP (s t : State) (d : PReg) (q : Point) : Prop extends s.Completed t where
  value : t.readP d = q
  x : s.sameX t []
  p : s.sameP t [d]
  bytes : s.sameBytes t 0 0
  len : t.len = s.len

/-- The command succeeded, `LEN` is now `n`, and that is all it wrote. -/
structure State.WritesLen (s t : State) (n : Nat) : Prop extends s.Completed t where
  len : t.len.val = n
  x : s.sameX t []
  p : s.sameP t []
  bytes : s.sameBytes t 0 0

/-- The command succeeded, the string `bs` stands at `BUF[k..k + |bs|)`, and that is all it wrote. -/
structure State.WritesBytes (s t : State) (k : Nat) (bs : Bytes) : Prop extends s.Completed t where
  stored : ∀ i, i < bs.length → t.byte (k + i) = bs.getD i 0
  x : s.sameX t []
  p : s.sameP t []
  bytes : s.sameBytes t k bs.length
  len : t.len = s.len

/-- The command succeeded, the message is now `bs` (R19, `SetMsg`), and that is all it wrote. -/
structure State.WritesMsg (s t : State) (bs : Bytes) : Prop extends s.Completed t where
  len : t.len.val = bs.length
  stored : ∀ i, i < bs.length → t.byte i = bs.getD i 0
  x : s.sameX t []
  p : s.sameP t []
  bytes : s.sameBytes t 0 bs.length

/-- The faults a decoded command can raise (R303). -/
def errorsOf : Instr → List ErrCode
  | .ldbe _ _ _ | .ldle _ _ _ => [.bufBounds]
  | .stbe _ _ _ => [.bufBounds, .encOverflow]
  | .finv _ _ | .fdiv _ _ _ => [.invZero]
  | .pnew _ _ _ => [.notOnCurve]
  | .pgetx _ _ | .pgety _ _ => [.noCoord]
  | .secenc _ _ | .addr _ _ _ => [.serIdentity]
  | .secdec _ => [.badLength, .secTag, .notOnCurve]
  | .nonce _ _ | .sign _ _ _ | .verify _ _ _ _ => [.badLength]
  | .derdec _ _ => [.derCompound, .derLength, .derMarker, .encOverflow]
  | .b58enc | .b58cenc => [.bufBounds]
  | .b58dec => [.b58Char]
  | .b58cdec => [.b58Char, .badLength, .b58Checksum]
  | .nop | .li _ _ | .ldc _ _ | .mov _ _ | .setlen _ | .getlen _
  | .fred _ _ | .fadd _ _ _ | .fsub _ _ _ | .fneg _ _ | .fmul _ _ _ | .fpow _ _ _ _ | .fsqrt _ _
  | .fisz _ _ | .feq _ _ _ | .pcont _ _ _ | .pinf _ | .pldg _ | .pmov _ _ | .padd _ _ _ | .pmul _ _ _
  | .peq _ _ _ | .pisinf _ _ | .keygen _ _ | .wif _ _ _ | .derenc _ _ | .h256 | .h160 => []

/-- A command whose candidate loop may go on (R203, R340). -/
def loops : Instr → Bool
  | .nonce _ _ | .sign _ _ _ => true
  | .nop | .li _ _ | .ldc _ _ | .mov _ _ | .setlen _ | .getlen _ | .ldbe _ _ _ | .ldle _ _ _ | .stbe _ _ _
  | .fred _ _ | .fadd _ _ _ | .fsub _ _ _ | .fneg _ _ | .fmul _ _ _ | .finv _ _ | .fdiv _ _ _
  | .fpow _ _ _ _ | .fsqrt _ _ | .fisz _ _ | .feq _ _ _
  | .pcont _ _ _ | .pnew _ _ _ | .pinf _ | .pldg _ | .pmov _ _ | .padd _ _ _ | .pmul _ _ _
  | .peq _ _ _ | .pisinf _ _ | .pgetx _ _ | .pgety _ _
  | .keygen _ _ | .secenc _ _ | .secdec _ | .addr _ _ _ | .wif _ _ _
  | .verify _ _ _ _ | .derenc _ _ | .derdec _ _
  | .b58enc | .b58dec | .b58cenc | .b58cdec | .h256 | .h160 => false

/-- A command that writes a point register (R25). -/
def writesPoint : Instr → Bool
  | .pnew _ _ _ | .secdec _ | .pinf _ | .pldg _ | .pmov _ _ | .padd _ _ _ | .pmul _ _ _ | .keygen _ _ => true
  | .nop | .li _ _ | .ldc _ _ | .mov _ _ | .setlen _ | .getlen _ | .ldbe _ _ _ | .ldle _ _ _ | .stbe _ _ _
  | .fred _ _ | .fadd _ _ _ | .fsub _ _ _ | .fneg _ _ | .fmul _ _ _ | .finv _ _ | .fdiv _ _ _
  | .fpow _ _ _ _ | .fsqrt _ _ | .fisz _ _ | .feq _ _ _ | .pcont _ _ _
  | .peq _ _ _ | .pisinf _ _ | .pgetx _ _ | .pgety _ _
  | .secenc _ _ | .addr _ _ _ | .wif _ _ _ | .nonce _ _ | .sign _ _ _
  | .verify _ _ _ _ | .derenc _ _ | .derdec _ _
  | .b58enc | .b58dec | .b58cenc | .b58cdec | .h256 | .h160 => false

/-! ### The group law and the DER decoder, as the spec's tables of cases -/

/-- `(x, y)` is on the curve: `y² = x³ + 7` in the field (R150). -/
def OnCurve (x y : Nat) : Prop := y * y % Config.prime = (x * x * x + 7) % Config.prime

/-- `(x3, y3)` is the third point of the line of slope `m` through `(x1, y1)` and a point with first coordinate `x2`,
reflected (R156, cases 4 and 5). -/
def OnLine (m x1 y1 x2 : Int) (x3 y3 : Word) : Prop :=
  x3.toNat < Config.prime ∧ y3.toNat < Config.prime ∧
  (x3.toNat : Int) ≡ m * m - x1 - x2 [ZMOD Config.prime] ∧
  (y3.toNat : Int) ≡ m * (x1 - x3.toNat) - y1 [ZMOD Config.prime]

/-- `R = P + Q`, the five cases of R156 over the field: the slope is the solution of a linear congruence. -/
def IsSum : Point → Point → Point → Prop
  | .inf, q, r => r = q
  | p, .inf, r => r = p
  | .pt x1 y1, .pt x2 y2, r =>
    if x1 = x2 then
      if y1 ≠ y2 ∨ y1 = 0 then r = .inf
      else
        ∃ (m : Int) (x3 y3 : Word), r = .pt x3 y3 ∧
          m * (2 * y1.toNat) ≡ 3 * (x1.toNat * x1.toNat) [ZMOD Config.prime] ∧
          OnLine m x1.toNat y1.toNat x1.toNat x3 y3
    else
      ∃ (m : Int) (x3 y3 : Word), r = .pt x3 y3 ∧
        m * ((x2.toNat : Int) - x1.toNat) ≡ (y2.toNat : Int) - y1.toNat [ZMOD Config.prime] ∧
        OnLine m x1.toNat y1.toNat x2.toNat x3 y3

/-- `-P`: the same `x` and the negated `y` (R157, R164). -/
def Point.opposite : Point → Point
  | .inf => .inf
  | .pt x y => .pt x (BitVec.ofNat 256 ((Config.prime - y.toNat) % Config.prime))

/-- The sum of `k` copies of `p` (glossary of 00_scope: "repeated group addition of a point with itself"). -/
def multiple (k : Nat) (p : Point) : Point := (fun q => padd q p)^[k] .inf

/-- `der_dec(m)` with the position `pos` of R214 written out: the first failing check in reading order. -/
def derDecodeAt (m : Bytes) : Except ErrCode (Nat × Nat) :=
  let at' (i : Nat) : Byte := m.getD i 0
  let rl := (at' 3).toNat
  let sl := (at' (5 + rl)).toNat
  let r := intBE ((m.drop 4).take rl)
  let s := intBE ((m.drop (6 + rl)).take sl)
  if m.length < 1 then .error .derLength
  else if at' 0 ≠ 0x30 then .error .derCompound
  else if m.length < 2 ∨ (at' 1).toNat + 2 ≠ m.length then .error .derLength
  else if m.length < 3 then .error .derLength
  else if at' 2 ≠ 0x02 then .error .derMarker
  else if m.length < 4 + rl then .error .derLength
  else if m.length < 5 + rl then .error .derLength
  else if at' (4 + rl) ≠ 0x02 then .error .derMarker
  else if m.length < 6 + rl ∨ m.length < 6 + rl + sl then .error .derLength
  else if 6 + rl + sl ≠ m.length then .error .derLength
  else if r ≥ 2 ^ 256 ∨ s ≥ 2 ^ 256 then .error .encOverflow
  else .ok (r, s)

end Sys2Proof.Machine
end

