-- ==== Sys2Proof/Certificates/Slice0/Obligations.lean ====
section
/-!
DEFINITION. The statements for the provers. Each says which rule of spec/ it formalises; what the predicates
`WritesX`, `WritesMsg`, `Faulted` and their like say is in Sys2Proof/Safety.lean. A statement about a command has
three parts: the word of 30_encoding that decodes to it, the next state `exec` answers, and the frame.
-/

open Sys2Proof Sys2Proof.Machine

/-! ### Encoding (30_encoding) -/

/-- Decoding the word of a legal command gives the command: no bit of an encoding is dropped. -/
def Obligations.DecodeOfEncode : Prop :=
  ∀ i : Instr, i.wellFormed = true → decode (encode i) = .ok i

/-- Every legal word is the word of exactly the command it decodes to, and that command is well-formed. -/
def Obligations.LegalWordsAreEncodings : Prop :=
  ∀ (w : Word32) (i : Instr), decode w = .ok i → i.wellFormed = true ∧ encode i = w

/-- R80, the seven worked encodings with their assembly, and the six illegal words. -/
def Obligations.WorkedEncodings : Prop :=
  (decode 0x00021311 = .ok (.fadd 3 1 2) ∧ encode (.fadd 3 1 2) = 0x00021311 ∧
    assembly (.fadd 3 1 2) = "FADD X3, X1, X2") ∧
  (decode 0x13880101 = .ok (.li 1 5000) ∧ encode (.li 1 5000) = 0x13880101 ∧
    assembly (.li 1 5000) = "LI X1, 5000") ∧
  (decode 0x01020406 = .ok (.ldbe 4 1 32) ∧ encode (.ldbe 4 1 32) = 0x01020406 ∧
    assembly (.ldbe 4 1 32) = "LDBE X4, 1, 32") ∧
  (decode 0x02001033 = .ok (.addr 1 false true) ∧ encode (.addr 1 false true) = 0x02001033 ∧
    assembly (.addr 1 false true) = "ADDR P1, U, TEST") ∧
  (decode 0x00501441 = .ok (.sign 4 5 1) ∧ encode (.sign 4 5 1) = 0x00501441 ∧
    assembly (.sign 4 5 1) = "SIGN X4, X5, X1") ∧
  (decode 0x00154642 = .ok (.verify 6 1 4 5) ∧ encode (.verify 6 1 4 5) = 0x00154642 ∧
    assembly (.verify 6 1 4 5) = "VERIFY X6, P1, X4, X5") ∧
  (decode 0x01021317 = .ok (.fpow 3 1 2 true) ∧ encode (.fpow 3 1 2 true) = 0x01021317 ∧
    assembly (.fpow 3 1 2 true) = "FPOW X3, X1, X2, NEG") ∧
  decode 0x00000009 = .error .unassignedOpcode ∧
  decode 0x00100011 = .error .unusedNotZero ∧
  decode 0x00000425 = .error .pointRegister ∧
  decode 0x00060002 = .error .operandRange ∧
  decode 0x00021006 = .error .operandRange ∧
  decode 0x00401441 = .error .sameDestination

/-- R77 and R78: a word that is no well-formed command's word, in particular one whose opcode is not one of the 47,
ends in the fault `E_ILLEGAL_CMD`, before any operand is read: whatever the operands hold. -/
def Obligations.IllegalWordsFault : Prop :=
  (∀ s : State, s.busy = true → s.hostOps = [] →
    (∀ i : Instr, i.wellFormed = true → encode i ≠ s.cmd) →
    ∃ t, step s = .next t ∧ s.Faulted t .illegalCmd) ∧
  (∀ (w : Word32) (i : Instr), w.toNat % 256 ∉
      [0x00, 0x01, 0x02, 0x03, 0x04, 0x05, 0x06, 0x07, 0x08,
       0x10, 0x11, 0x12, 0x13, 0x14, 0x15, 0x16, 0x17, 0x18, 0x19, 0x1A,
       0x20, 0x21, 0x22, 0x23, 0x24, 0x25, 0x26, 0x27, 0x28, 0x29, 0x2A,
       0x30, 0x31, 0x32, 0x33, 0x34, 0x40, 0x41, 0x42, 0x43, 0x44,
       0x50, 0x51, 0x52, 0x53, 0x60, 0x61] →
    encode i ≠ w ∧ decode w = .error .unassignedOpcode)

/-! ### The step -/

/-- A step of a busy core with no host access in front of it is `exec` of the command that the issued word decodes to;
a step of an idle core changes nothing; where the host lets the core move by `wait`, only that mark is consumed. -/
def Obligations.StepRunsTheDecodedCommand : Prop :=
  (∀ (s : State) (i : Instr), s.busy = true → s.hostOps = [] → decode s.cmd = .ok i → step s = exec i s) ∧
  (∀ s : State, s.busy = false → s.hostOps = [] → step s = .next s) ∧
  (∀ (s : State) (rest : List HostOp), s.hostOps = .wait :: rest → step s = coreStep { s with hostOps := rest }) ∧
  (∀ (s : State) (i : Instr), s.busy = true → decode s.cmd = .ok i → coreStep s = exec i s)

/-- R315: every word in every state has exactly one outcome, and it is a new state: the machine never stops. -/
def Obligations.EveryStepAnswersANextState : Prop := ∀ s : State, s.goesOn

/-! ### The bus window (10_state, 20_memory) -/

/-- R33, in the model's form: a write to `CMD` issues the command when `BUSY = 0` and `ERR = 0`, and the core executes the
word; otherwise the write is dropped; a read returns the last word accepted. That issue and execution are two steps is the
model's reading (log entry 1), and that a dropped write is answered with completion is its choice (log entry 16). -/
def Obligations.CommandRegister : Prop :=
  (∀ (s : State) (w : Word32) (rest : List HostOp), s.hostOps = .write 0x000 32 w :: rest →
    s.busy = false → s.err = 0 →
    ∃ t, step s = .next t ∧
      t = { s with hostOps := rest, reply := .done, cmd := w, done := false, busy := true, nonceLoop := none } ∧
      (rest = [] → ∀ i, decode w = .ok i → step t = exec i t)) ∧
  (∀ (s : State) (w : Word32) (rest : List HostOp), s.hostOps = .write 0x000 32 w :: rest →
    s.busy = true ∨ s.err ≠ 0 → step s = .next { s with hostOps := rest, reply := .done }) ∧
  (∀ (s : State) (rest : List HostOp), s.hostOps = .read 0x000 32 :: rest → s.busy = false →
    step s = .next { s with hostOps := rest, reply := .word s.cmd }) ∧
  State.reset.cmd = 0

/-- R34: the fields of `STATUS`, and the write-1-to-clear of `DONE`. -/
def Obligations.StatusRegister : Prop :=
  (∀ (s : State) (rest : List HostOp), s.hostOps = .read 0x004 32 :: rest →
    ∃ v : Word32, step s = .next { s with hostOps := rest, reply := .word v } ∧
      ∀ n, n < 32 → v.getLsbD n =
        if n = 0 then s.busy else if n = 1 then s.done else if n = 2 then decide (s.err ≠ 0)
        else if 8 ≤ n ∧ n < 16 then s.err.getLsbD (n - 8) else false) ∧
  (∀ (s : State) (w : Word32) (rest : List HostOp), s.hostOps = .write 0x004 32 w :: rest → s.busy = false →
    step s = .next { s with hostOps := rest, reply := .done, done := s.done && !w.getLsbD 1 })

/-- R36: `IE` and `CLRERR` of `CTRL`. -/
def Obligations.ControlRegister : Prop :=
  (∀ (s : State) (rest : List HostOp), s.hostOps = .read 0x008 32 :: rest → s.busy = false →
    ∃ v : Word32, step s = .next { s with hostOps := rest, reply := .word v } ∧
      ∀ n, n < 32 → v.getLsbD n = (decide (n = 0) && s.ie)) ∧
  (∀ (s : State) (w : Word32) (rest : List HostOp), s.hostOps = .write 0x008 32 w :: rest → s.busy = false →
    step s = .next { s with hostOps := rest, reply := .done, ie := w.getLsbD 0,
                            err := if w.getLsbD 1 then 0 else s.err })

/-- R37 and R38: `ECMD` is read-only; `LEN` is written from a word at most 256 and otherwise keeps its value. -/
def Obligations.LengthAndFaultRecord : Prop :=
  (∀ (s : State) (rest : List HostOp), s.hostOps = .read 0x00C 32 :: rest → s.busy = false →
    step s = .next { s with hostOps := rest, reply := .word s.ecmd }) ∧
  (∀ (s : State) (w : Word32) (rest : List HostOp), s.hostOps = .write 0x00C 32 w :: rest → s.busy = false →
    step s = .next { s with hostOps := rest, reply := .done }) ∧
  (∀ (s : State) (rest : List HostOp), s.hostOps = .read 0x010 32 :: rest → s.busy = false →
    ∃ v : Word32, step s = .next { s with hostOps := rest, reply := .word v } ∧ v.toNat = s.len.val) ∧
  (∀ (s : State) (w : Word32) (rest : List HostOp), s.hostOps = .write 0x010 32 w :: rest → s.busy = false →
    ∃ n : Fin 257, step s = .next { s with hostOps := rest, reply := .done, len := n } ∧
      (w.toNat ≤ 256 → n.val = w.toNat) ∧ (256 < w.toNat → n = s.len)) ∧
  State.reset.ecmd = 0

/-- R53: word `j` of `X[i]` in the window, read and written. -/
def Obligations.RegisterWindow : Prop :=
  (∀ (s : State) (i : XReg) (j : Nat) (rest : List HostOp), j < 8 →
    s.hostOps = .read (0x200 + 32 * i + 4 * j) 32 :: rest → s.busy = false →
    ∃ v : Word32, step s = .next { s with hostOps := rest, reply := .word v } ∧
      ∀ n, n < 32 → v.getLsbD n = (s.readX i).getLsbD (32 * j + n)) ∧
  (∀ (s : State) (i : XReg) (j : Nat) (w : Word32) (rest : List HostOp), j < 8 →
    s.hostOps = .write (0x200 + 32 * i + 4 * j) 32 w :: rest → s.busy = false →
    ∃ t, step s = .next t ∧ t = { s with hostOps := rest, reply := .done, x := t.x } ∧ s.sameX t [i] ∧
      ∀ n, n < 256 → (t.readX i).getLsbD n =
        if 32 * j ≤ n ∧ n < 32 * j + 32 then w.getLsbD (n - 32 * j) else (s.readX i).getLsbD n)

/-- R54: four bytes of `BUF` in the window, read and written; `LEN` is not looked at and not changed. -/
def Obligations.BufferWindow : Prop :=
  (∀ (s : State) (m : Nat) (rest : List HostOp), m < 64 →
    s.hostOps = .read (0x400 + 4 * m) 32 :: rest → s.busy = false →
    ∃ v : Word32, step s = .next { s with hostOps := rest, reply := .word v } ∧
      ∀ k n, k < 4 → n < 8 → v.getLsbD (8 * k + n) = (s.byte (4 * m + k)).getLsbD n) ∧
  (∀ (s : State) (m : Nat) (w : Word32) (rest : List HostOp), s.bufCanonical → m < 64 →
    s.hostOps = .write (0x400 + 4 * m) 32 w :: rest → s.busy = false →
    ∃ t, step s = .next t ∧ t = { s with hostOps := rest, reply := .done, buf := t.buf } ∧
      s.sameBytes t (4 * m) 4 ∧
      ∀ k n, k < 4 → n < 8 → (t.byte (4 * m + k)).getLsbD n = w.getLsbD (8 * k + n))

/-- The reserved words of the map read 0 and ignore writes; an access that is not an aligned 32-bit word of the window
gets `BusError` and changes nothing. That this holds while a command runs as well is the model's reading
(log entry 5). -/
def Obligations.ReservedWordsAndBusErrors : Prop :=
  (∀ (s : State) (off : Nat) (rest : List HostOp), off % 4 = 0 →
    (0x014 ≤ off ∧ off < 0x200 ∨ 0x500 ≤ off ∧ off < 0x600) → s.busy = false →
    (s.hostOps = .read off 32 :: rest → step s = .next { s with hostOps := rest, reply := .word 0 }) ∧
    (∀ w, s.hostOps = .write off 32 w :: rest → step s = .next { s with hostOps := rest, reply := .done })) ∧
  (∀ (s : State) (off width : Nat) (rest : List HostOp), width ≠ 32 ∨ off % 4 ≠ 0 ∨ 0x600 ≤ off →
    (s.hostOps = .read off width :: rest → step s = .next { s with hostOps := rest, reply := .busError }) ∧
    (∀ w, s.hostOps = .write off width w :: rest → step s = .next { s with hostOps := rest, reply := .busError }))

/-- R61: while a command runs, `STATUS` reads `BUSY = 1`, `DONE = 0`; every other read of the window returns some word
(nothing is said of it: a free value, log entry 4) and changes nothing in the core; every write, to any offset, is
dropped. -/
def Obligations.AccessesWhileBusy : Prop :=
  ∀ (s : State) (off width : Nat) (rest : List HostOp), s.busy = true → s.statusOk →
    (s.hostOps = .read off width :: rest →
      ∃ r n, step s = .next { s with hostOps := rest, reply := r, draws := n } ∧
        (width = 32 → off % 4 = 0 → off < 0x600 → ∃ v : Word32, r = .word v ∧ (off = 0x004 → v.toNat = 1))) ∧
    (∀ w, s.hostOps = .write off width w :: rest →
      ∃ r, step s = .next { s with hostOps := rest, reply := r })

/-! ### Reset, the interrupt line, the return from a fault -/

/-- R41: the state after reset. -/
def Obligations.ResetValues : Prop :=
  (∀ i, State.reset.readX i = 0) ∧ (∀ i, State.reset.readP i = .inf) ∧ (∀ k, State.reset.byte k = 0) ∧
  State.reset.len = 0 ∧ State.reset.cmd = 0 ∧ State.reset.busy = false ∧ State.reset.done = false ∧
  State.reset.err = 0 ∧ State.reset.ie = false ∧ State.reset.ecmd = 0

/-- R331, with the values of R330: reset while a command runs, or at any other time, ends it; no fault is
recorded. -/
def Obligations.ResetEndsAnyCommand : Prop :=
  ∀ (s : State) (rest : List HostOp), s.hostOps = .reset :: rest →
    ∃ t, step s = .next t ∧ t.hostOps = rest ∧
      (∀ i, t.readX i = 0) ∧ (∀ i, t.readP i = .inf) ∧ (∀ k, t.byte k = 0) ∧ t.len = 0 ∧ t.cmd = 0 ∧
      t.busy = false ∧ t.done = false ∧ t.err = 0 ∧ t.ie = false ∧ t.ecmd = 0 ∧ t.nonceLoop = none ∧
      t.statusWord = 0 ∧ t.ctrlWord = 0 ∧ t.irq = false

/-- R311: `irq = IE AND DONE`; it rises when a command ends while `IE = 1` or when the host sets `IE` while `DONE = 1`,
and falls on the write of `STATUS` bit 1, on the next command, on clearing `IE`, and at reset. -/
def Obligations.InterruptLine : Prop :=
  (∀ s : State, s.irq = true ↔ s.ie = true ∧ s.done = true) ∧
  (∀ s t : State, s.Completed t → t.irq = s.ie) ∧
  (∀ (s t : State) (e : ErrCode), s.Faulted t e → t.irq = s.ie) ∧
  (∀ (s t : State) (w : Word32) (rest : List HostOp), s.busy = false → step s = .next t →
    (s.hostOps = .write 0x008 32 w :: rest → t.irq = (w.getLsbD 0 && s.done)) ∧
    (s.hostOps = .write 0x004 32 w :: rest → w.getLsbD 1 = true → t.irq = false) ∧
    (s.hostOps = .write 0x000 32 w :: rest → s.err = 0 → t.irq = false)) ∧
  (∀ (s t : State) (rest : List HostOp), s.hostOps = .reset :: rest → step s = .next t → t.irq = false)

/-- R308: after a fault, the host's write of `CLRERR` gives the state before the failed command but for `CMD`, `ECMD`
and `DONE`; the same command issued again, with unchanged operands, fails again. -/
def Obligations.ReturnFromFault : Prop :=
  ∀ (s t : State) (i : Instr) (e : ErrCode), s.err = 0 → exec i s = .next t → s.Faulted t e →
    (∀ (w : Word32) (rest : List HostOp), w.getLsbD 0 = s.ie → w.getLsbD 1 = true →
      ∃ u, step { t with hostOps := .write 0x008 32 w :: rest } = .next u ∧
        u.err = 0 ∧ u.ecmd = s.cmd ∧ u.done = true ∧ u.busy = false ∧ u.ie = s.ie ∧ u.cmd = s.cmd ∧
        s.sameX u [] ∧ s.sameP u [] ∧ s.sameBytes u 0 0 ∧ u.len = s.len) ∧
    (∃ u, exec i (t.clearFault.issue s.cmd) = .next u ∧ (t.clearFault.issue s.cmd).Faulted u e)

/-! ### Whole-machine rules -/

/-- R303: what a command does once decoded: it succeeds, or it faults with one of its own errors, or it is a NONCE or
SIGN whose candidate loop goes on and which has written nothing yet. That third outcome, a loop kept in the state with one
candidate a step, is the model's choice (log entry 3). -/
def Obligations.FaultsOfEachCommand : Prop :=
  ∀ (i : Instr) (s : State), i.wellFormed = true →
    ∃ t, exec i s = .next t ∧
      (s.Completed t ∨ (∃ e ∈ errorsOf i, s.Faulted t e) ∨
        (loops i = true ∧ ∃ l, t = { s with nonceLoop := some l }))

/-- R70: a command's outcome is a function of its word, `X`, `P`, `BUF` and `LEN` (and of the command's own candidate
loop): states that agree on these end in states that agree on these and raise the same fault, if one. -/
def Obligations.CommandsDependOnOperandsOnly : Prop :=
  ∀ (i : Instr) (s s' : State), s.x = s'.x → s.p = s'.p → s.buf = s'.buf → s.len = s'.len →
    s.nonceLoop = s'.nonceLoop →
    ∃ t t', exec i s = .next t ∧ exec i s' = .next t' ∧
      t.x = t'.x ∧ t.p = t'.p ∧ t.buf = t'.buf ∧ t.len = t'.len ∧ t.nonceLoop = t'.nonceLoop ∧
      (t.err = s.err ∧ t'.err = s'.err ∧ t.ecmd = s.ecmd ∧ t'.ecmd = s'.ecmd ∨
       t.err = t'.err ∧ t.ecmd = s.cmd ∧ t'.ecmd = s'.cmd)

/-- No command reads or writes the host's side: `CMD` and `IE` keep their values, and so do the model's host fields. -/
def Obligations.CommandsKeepTheHostSide : Prop :=
  ∀ (i : Instr) (s t : State), exec i s = .next t → s.SameHostSide t

/-! ### Invariants -/

/-- The invariant of the whole state holds after reset. -/
def Obligations.ResetMeetsInvariant : Prop := State.reset.Inv

/-- R25: every point register always holds `Inf` or a point of the curve; the host's accesses neither read nor write
one, but by reset, and of the commands only PNEW, SECDEC, PINF, PLDG, PMOV, PADD, PMUL and KEYGEN write one. -/
def Obligations.PointsStayOnTheCurve : Prop :=
  State.reset.pointsValid ∧
  (∀ s t : State, s.pointsValid → step s = .next t → t.pointsValid) ∧
  (∀ s : State, s.pointsValid ↔ ∀ i, s.readP i = .inf ∨ ∃ x y : Word, s.readP i = .pt x y ∧
    x.toNat < Config.prime ∧ y.toNat < Config.prime ∧ OnCurve x.toNat y.toNat) ∧
  (∀ (s : State) (off width : Nat) (w : Word32), (s.hostWrite off width w).p = s.p ∧ (s.hostRead off width).p = s.p) ∧
  (∀ (s : State) (off width : Nat) (p : Vector Point 4),
    ({ s with p := p }.hostRead off width).reply = (s.hostRead off width).reply) ∧
  (∀ (i : Instr) (s t : State), writesPoint i = false → exec i s = .next t → t.p = s.p)

/-- The buffer keeps its canonical form. -/
def Obligations.BufferStaysCanonical : Prop :=
  ∀ s t : State, s.bufCanonical → step s = .next t → t.bufCanonical

/-- At most one of `BUSY` and `DONE` is 1 (R35), no command runs while `ERR ≠ 0` (R309), and a candidate loop lives inside
a running command with a 32-byte `K` and a 32-byte `V` (R203). -/
def Obligations.StatusStaysLegal : Prop :=
  (∀ s t : State, s.statusOk → step s = .next t → t.statusOk) ∧
  (∀ s t : State, s.nonceLoopOk → step s = .next t → t.nonceLoopOk)

/-- `ERR` is never written with a value that is no code, nor with one of the two reserved codes. -/
def Obligations.ErrorCodesStayPossible : Prop :=
  (∀ s t : State, s.errPossible → step s = .next t → t.errPossible) ∧
  (∀ s : State, s.errPossible → s.err.toNat ∈
    [0x00, 0x01, 0x03, 0x04, 0x05, 0x06, 0x07, 0x08, 0x10, 0x11, 0x12, 0x13, 0x14, 0x15, 0x16])

/-! ### Moves and the buffer (40_move_system) -/

/-- R100 to R104 and R109: NOP, LI, LDC, MOV, SETLEN, GETLEN. -/
def Obligations.MoveCommands : Prop :=
  ∀ (s : State) (rd rs1 : XReg) (imm16 : BitVec 16),
    (decode 0x00000000 = .ok .nop ∧ ∃ t, exec .nop s = .next t ∧ s.WritesNothing t) ∧
    (decode (formatI 0x01 rd imm16.toNat) = .ok (.li rd imm16) ∧
      ∃ t, exec (.li rd imm16) s = .next t ∧ s.WritesX t rd imm16.toNat) ∧
    (imm16.toNat ≤ 5 → decode (formatI 0x02 rd imm16.toNat) = .ok (.ldc rd imm16) ∧
      ∃ t, exec (.ldc rd imm16) s = .next t ∧ s.WritesX t rd
        ([Config.prime, Config.order, Config.gx, Config.gy, Config.curveA, Config.curveB].getD imm16.toNat 0)) ∧
    (5 < imm16.toNat → decode (formatI 0x02 rd imm16.toNat) = .error .operandRange) ∧
    (decode (formatR 0x03 rd rs1 0 0 0) = .ok (.mov rd rs1) ∧
      ∃ t, exec (.mov rd rs1) s = .next t ∧ s.WritesX t rd (s.readX rs1).toNat) ∧
    (imm16.toNat ≤ 256 → decode (formatI 0x04 0 imm16.toNat) = .ok (.setlen imm16) ∧
      ∃ t, exec (.setlen imm16) s = .next t ∧ s.WritesLen t imm16.toNat) ∧
    (256 < imm16.toNat → decode (formatI 0x04 0 imm16.toNat) = .error .operandRange) ∧
    (decode (formatR 0x05 rd 0 0 0 0) = .ok (.getlen rd) ∧
      ∃ t, exec (.getlen rd) s = .next t ∧ s.WritesX t rd s.len.val)

/-- R106 and R107: LDBE and LDLE read the big-endian and the little-endian integer of the window `[off, off + len)`, or
raise `E_BUF_BOUNDS` where it passes the end of `BUF`. -/
def Obligations.BufferLoads : Prop :=
  ∀ (s : State) (rd : XReg) (off : BitVec 8) (len : BitVec 6), len.toNat ≤ 32 →
    (decode (formatM 0x06 rd len.toNat off.toNat) = .ok (.ldbe rd off len) ∧
      ∃ t, exec (.ldbe rd off len) s = .next t ∧
        if off.toNat + len.toNat ≤ 256 then
          s.WritesX t rd (∑ i ∈ Finset.range len.toNat, (s.byte (off.toNat + i)).toNat * 256 ^ (len.toNat - 1 - i))
        else s.Faulted t .bufBounds) ∧
    (decode (formatM 0x07 rd len.toNat off.toNat) = .ok (.ldle rd off len) ∧
      ∃ t, exec (.ldle rd off len) s = .next t ∧
        if off.toNat + len.toNat ≤ 256 then
          s.WritesX t rd (∑ i ∈ Finset.range len.toNat, (s.byte (off.toNat + i)).toNat * 256 ^ i)
        else s.Faulted t .bufBounds)

/-- R108: STBE writes the big-endian padded bytes of `X[rd]` at `[off, off + len)`, or raises `E_BUF_BOUNDS` and then
`E_ENC_OVERFLOW`; with R105, a byte count above 32 is illegal in all three buffer moves. -/
def Obligations.BufferStore : Prop :=
  (∀ (s : State) (rd : XReg) (off : BitVec 8) (len : BitVec 6), s.bufCanonical → len.toNat ≤ 32 →
    decode (formatM 0x08 rd len.toNat off.toNat) = .ok (.stbe rd off len) ∧
    ∃ t, exec (.stbe rd off len) s = .next t ∧
      if 256 < off.toNat + len.toNat then s.Faulted t .bufBounds
      else if 256 ^ len.toNat ≤ (s.readX rd).toNat then s.Faulted t .encOverflow
      else s.WritesBytes t off.toNat
        ((List.range len.toNat).map fun i =>
          BitVec.ofNat 8 ((s.readX rd).toNat / 256 ^ (len.toNat - 1 - i)))) ∧
  (∀ (rd : XReg) (off : BitVec 8) (len : BitVec 6) (opcode : Nat), opcode ∈ [0x06, 0x07, 0x08] → 32 < len.toNat →
    decode (formatM opcode rd len.toNat off.toNat) = .error .operandRange)

/-! ### The field (41_field) -/

/-- R121 to R125: FRED, FADD, FSUB, FNEG and FMUL write the reduced sum, difference, negative and product of their
operands as integers, formed without wrap-around. -/
def Obligations.FieldRing : Prop :=
  ∀ (s : State) (rd rs1 rs2 : XReg) (a b : Nat), a = (s.readX rs1).toNat → b = (s.readX rs2).toNat →
    (decode (formatR 0x10 rd rs1 0 0 0) = .ok (.fred rd rs1) ∧
      ∃ t, exec (.fred rd rs1) s = .next t ∧ s.WritesX t rd (a % Config.prime)) ∧
    (decode (formatR 0x11 rd rs1 rs2 0 0) = .ok (.fadd rd rs1 rs2) ∧
      ∃ t, exec (.fadd rd rs1 rs2) s = .next t ∧ s.WritesX t rd ((a + b) % Config.prime)) ∧
    (decode (formatR 0x12 rd rs1 rs2 0 0) = .ok (.fsub rd rs1 rs2) ∧
      ∃ t v, exec (.fsub rd rs1 rs2) s = .next t ∧ s.WritesX t rd v ∧
        (v : Int) = ((a : Int) - b) % Config.prime) ∧
    (decode (formatR 0x13 rd rs1 0 0 0) = .ok (.fneg rd rs1) ∧
      ∃ t v, exec (.fneg rd rs1) s = .next t ∧ s.WritesX t rd v ∧ (v : Int) = (-(a : Int)) % Config.prime) ∧
    (decode (formatR 0x14 rd rs1 rs2 0 0) = .ok (.fmul rd rs1 rs2) ∧
      ∃ t, exec (.fmul rd rs1 rs2) s = .next t ∧ s.WritesX t rd (a * b % Config.prime))

/-- R126 and R127: FINV writes the unique inverse, FDIV the quotient; both raise `E_INV_ZERO` on a divisor that is 0 as a
field element, whatever the dividend is. -/
def Obligations.FieldInverseAndDivision : Prop :=
  ∀ (s : State) (rd rs1 rs2 : XReg) (a b : Nat),
    a = (s.readX rs1).toNat % Config.prime → b = (s.readX rs2).toNat % Config.prime →
    (decode (formatR 0x15 rd rs1 0 0 0) = .ok (.finv rd rs1) ∧
      ∃ t, exec (.finv rd rs1) s = .next t ∧
        if a = 0 then s.Faulted t .invZero
        else ∃ v, s.WritesX t rd v ∧ v = a ^ (Config.prime - 2) % Config.prime ∧
          ∀ v', (1 ≤ v' ∧ v' < Config.prime ∧ a * v' % Config.prime = 1) ↔ v' = v) ∧
    (decode (formatR 0x16 rd rs1 rs2 0 0) = .ok (.fdiv rd rs1 rs2) ∧
      ∃ t, exec (.fdiv rd rs1 rs2) s = .next t ∧
        if b = 0 then s.Faulted t .invZero
        else ∃ v, s.WritesX t rd v ∧ v = a * (b ^ (Config.prime - 2) % Config.prime) % Config.prime ∧
          v * b % Config.prime = a)

/-- R128: FPOW raises to the power `X[rs2]`, or to the exponent congruent to `-X[rs2]` modulo `PRIME - 1`; it never
faults. -/
def Obligations.FieldPower : Prop :=
  ∀ (s : State) (rd rs1 rs2 : XReg) (a m : Nat), a = (s.readX rs1).toNat % Config.prime → m = (s.readX rs2).toNat →
    (decode (formatR 0x17 rd rs1 rs2 0 0) = .ok (.fpow rd rs1 rs2 false) ∧
      ∃ t, exec (.fpow rd rs1 rs2 false) s = .next t ∧ s.WritesX t rd (a ^ m % Config.prime)) ∧
    (decode (formatR 0x17 rd rs1 rs2 0 1) = .ok (.fpow rd rs1 rs2 true) ∧
      ∃ t e, exec (.fpow rd rs1 rs2 true) s = .next t ∧ s.WritesX t rd (a ^ e % Config.prime) ∧
        e < Config.prime - 1 ∧ (e + m) % (Config.prime - 1) = 0)

/-- R129: FSQRT writes `a^((PRIME+1) div 4)`, whose square is `a` when `a` is a square and `-a` when it is not. -/
def Obligations.FieldSquareRoot : Prop :=
  ∀ (s : State) (rd rs1 : XReg) (a : Nat), a = (s.readX rs1).toNat % Config.prime →
    decode (formatR 0x18 rd rs1 0 0 0) = .ok (.fsqrt rd rs1) ∧
    ∃ t v, exec (.fsqrt rd rs1) s = .next t ∧ s.WritesX t rd v ∧
      v = a ^ ((Config.prime + 1) / 4) % Config.prime ∧
      ((∃ r, r * r % Config.prime = a) → v * v % Config.prime = a) ∧
      ((¬ ∃ r, r * r % Config.prime = a) → v * v % Config.prime = Config.prime - a)

/-- R130 and R131: FISZ and FEQ compare field elements, that is residues modulo `PRIME`. -/
def Obligations.FieldTests : Prop :=
  ∀ (s : State) (rd rs1 rs2 : XReg) (a b : Nat), a = (s.readX rs1).toNat → b = (s.readX rs2).toNat →
    (decode (formatR 0x19 rd rs1 0 0 0) = .ok (.fisz rd rs1) ∧
      ∃ t, exec (.fisz rd rs1) s = .next t ∧ s.WritesX t rd (if Config.prime ∣ a then 1 else 0)) ∧
    (decode (formatR 0x1A rd rs1 rs2 0 0) = .ok (.feq rd rs1 rs2) ∧
      ∃ t, exec (.feq rd rs1 rs2) s = .next t ∧ s.WritesX t rd (if a ≡ b [MOD Config.prime] then 1 else 0))

/-! ### The curve (42_curve) -/

/-- R151, R160 and R161: PCONT tests the curve equation, PEQ the equality of point values, PISINF the identity. -/
def Obligations.CurveTests : Prop :=
  ∀ (s : State) (rd rs1 rs2 : XReg) (ps1 ps2 : PReg) (x y : Nat), x = (s.readX rs1).toNat → y = (s.readX rs2).toNat →
    (decode (formatR 0x20 rd rs1 rs2 0 0) = .ok (.pcont rd rs1 rs2) ∧
      ∃ t v, exec (.pcont rd rs1 rs2) s = .next t ∧ s.WritesX t rd v ∧
        (OnCurve x y → v = 1) ∧ (¬ OnCurve x y → v = 0)) ∧
    (decode (formatR 0x27 rd ps1 ps2 0 0) = .ok (.peq rd ps1 ps2) ∧
      ∃ t, exec (.peq rd ps1 ps2) s = .next t ∧ s.WritesX t rd (if s.readP ps1 = s.readP ps2 then 1 else 0)) ∧
    (decode (formatR 0x28 rd ps1 0 0 0) = .ok (.pisinf rd ps1) ∧
      ∃ t, exec (.pisinf rd ps1) s = .next t ∧ s.WritesX t rd (if s.readP ps1 = .inf then 1 else 0))

/-- R152: PNEW makes the point of the reduced coordinates if they are on the curve, else raises `E_NOT_ON_CURVE`; a zero
coordinate always faults. -/
def Obligations.PointConstruction : Prop :=
  ∀ (s : State) (rd : PReg) (rs1 rs2 : XReg) (x y : Nat),
    x = (s.readX rs1).toNat % Config.prime → y = (s.readX rs2).toNat % Config.prime →
    decode (formatR 0x21 rd rs1 rs2 0 0) = .ok (.pnew rd rs1 rs2) ∧
    ∃ t, exec (.pnew rd rs1 rs2) s = .next t ∧
      (OnCurve x y → s.WritesP t rd (.pt (BitVec.ofNat 256 x) (BitVec.ofNat 256 y))) ∧
      (¬ OnCurve x y → s.Faulted t .notOnCurve) ∧
      (x = 0 ∨ y = 0 → s.Faulted t .notOnCurve)

/-- R153, R154, R155, R162 and R163: PLDG, PINF, PMOV, PGETX and PGETY. -/
def Obligations.PointMovesAndReads : Prop :=
  ∀ (s : State) (rd rs1 : PReg) (xd : XReg),
    (decode (formatR 0x23 rd 0 0 0 0) = .ok (.pldg rd) ∧
      ∃ t, exec (.pldg rd) s = .next t ∧
        s.WritesP t rd (.pt (BitVec.ofNat 256 Config.gx) (BitVec.ofNat 256 Config.gy))) ∧
    (decode (formatR 0x22 rd 0 0 0 0) = .ok (.pinf rd) ∧ ∃ t, exec (.pinf rd) s = .next t ∧ s.WritesP t rd .inf) ∧
    (decode (formatR 0x24 rd rs1 0 0 0) = .ok (.pmov rd rs1) ∧
      ∃ t, exec (.pmov rd rs1) s = .next t ∧ s.WritesP t rd (s.readP rs1)) ∧
    (decode (formatR 0x29 xd rs1 0 0 0) = .ok (.pgetx xd rs1) ∧
      ∃ t, exec (.pgetx xd rs1) s = .next t ∧
        (s.readP rs1 = .inf → s.Faulted t .noCoord) ∧ (∀ x y, s.readP rs1 = .pt x y → s.WritesX t xd x.toNat)) ∧
    (decode (formatR 0x2A xd rs1 0 0 0) = .ok (.pgety xd rs1) ∧
      ∃ t, exec (.pgety xd rs1) s = .next t ∧
        (s.readP rs1 = .inf → s.Faulted t .noCoord) ∧ (∀ x y, s.readP rs1 = .pt x y → s.WritesX t xd y.toNat))

/-- R156 and R157: PADD writes the sum of two points by the five cases of the group law; it never faults. -/
def Obligations.PointAddition : Prop :=
  ∀ (s : State) (rd rs1 rs2 : PReg), s.pointsValid →
    decode (formatR 0x25 rd rs1 rs2 0 0) = .ok (.padd rd rs1 rs2) ∧
    ∃ t q, exec (.padd rd rs1 rs2) s = .next t ∧ s.WritesP t rd q ∧ IsSum (s.readP rs1) (s.readP rs2) q

/-- The point values with `padd` are a commutative group: closed, associative, commutative, with `Inf` as neutral element
and `-P` as inverse. -/
def Obligations.PointsFormAGroup : Prop :=
  ∀ p q r : Point, p.valid = true → q.valid = true → r.valid = true →
    (padd p q).valid = true ∧ padd (padd p q) r = padd p (padd q r) ∧ padd p q = padd q p ∧
    padd p .inf = p ∧ p.opposite.valid = true ∧ padd p p.opposite = .inf

/-- PMUL writes `pmul(X[rs2], P[rs1])`, which is the sum of `X[rs2] mod N` copies of `P[rs1]`: the double-and-add loop
is repeated addition. -/
def Obligations.ScalarMultiplication : Prop :=
  ∀ (s : State) (rd rs1 : PReg) (rs2 : XReg), s.pointsValid →
    decode (formatR 0x26 rd rs1 rs2 0 0) = .ok (.pmul rd rs1 rs2) ∧
    ∃ t, exec (.pmul rd rs1 rs2) s = .next t ∧
      s.WritesP t rd (pmul (s.readX rs2).toNat (s.readP rs1)) ∧
      t.readP rd = multiple ((s.readX rs2).toNat % Config.order) (s.readP rs1)

/-- R180: KEYGEN writes `pmul(X[rs1], G)`, the multiple of the base point; secret 0 and secret `N` give `Inf`, secret 1 gives `G`. -/
def Obligations.KeyGeneration : Prop :=
  ∀ (s : State) (rd : PReg) (rs1 : XReg),
    decode (formatR 0x30 rd rs1 0 0 0) = .ok (.keygen rd rs1) ∧
    ∃ t, exec (.keygen rd rs1) s = .next t ∧
      s.WritesP t rd (pmul (s.readX rs1).toNat (.pt (BitVec.ofNat 256 Config.gx) (BitVec.ofNat 256 Config.gy))) ∧
      t.readP rd = multiple ((s.readX rs1).toNat % Config.order)
        (.pt (BitVec.ofNat 256 Config.gx) (BitVec.ofNat 256 Config.gy)) ∧
      ((s.readX rs1).toNat = 0 ∨ (s.readX rs1).toNat = Config.order → t.readP rd = .inf) ∧
      ((s.readX rs1).toNat = 1 → t.readP rd = .pt (BitVec.ofNat 256 Config.gx) (BitVec.ofNat 256 Config.gy))

/-- The document's own tests of the constants: `G` is on the curve and `N` copies of it sum to the identity, without the
reduction of the scalar. The digits of `GX`, `GY` and `N` are PRESUMED (log entry 6). -/
def Obligations.BasePointHasOrderN : Prop :=
  OnCurve Config.gx Config.gy ∧ multiple Config.order basePoint = .inf ∧
    ∀ k, 1 ≤ k → k < Config.order → multiple k basePoint ≠ .inf

/-! ### Keys (43_keys) -/

/-- R181 and R182: the SEC encoding becomes the message; the identity raises `E_SER_IDENTITY`. -/
def Obligations.SecEncode : Prop :=
  ∀ (s : State) (rs1 : PReg), s.bufCanonical →
    (decode (formatR 0x31 0 rs1 0 0 0) = .ok (.secenc rs1 false) ∧
     decode (formatR 0x31 0 rs1 0 0 1) = .ok (.secenc rs1 true)) ∧
    ∃ t u, exec (.secenc rs1 false) s = .next t ∧ exec (.secenc rs1 true) s = .next u ∧
      (s.readP rs1 = .inf → s.Faulted t .serIdentity ∧ s.Faulted u .serIdentity) ∧
      (∀ x y, s.readP rs1 = .pt x y →
        s.WritesMsg t (0x04 :: (bytesBE x.toNat 32 ++ bytesBE y.toNat 32)) ∧ t.len.val = 65 ∧
        s.WritesMsg u ((if y.toNat % 2 = 0 then 0x02 else 0x03) :: bytesBE x.toNat 32) ∧ u.len.val = 33)

/-- R183: SECDEC decodes the message by its length and tag; `BUF` and `LEN` are unchanged. -/
def Obligations.SecDecode : Prop :=
  ∀ (s : State) (rd : PReg) (x y beta : Nat),
    x = intBE (Memory.readBytes s.buf 1 32) % Config.prime →
    y = intBE (Memory.readBytes s.buf 33 32) % Config.prime →
    beta = ((x * x * x + 7) % Config.prime) ^ ((Config.prime + 1) / 4) % Config.prime →
    decode (formatR 0x32 rd 0 0 0 0) = .ok (.secdec rd) ∧
    ∃ t, exec (.secdec rd) s = .next t ∧
      (s.len.val ≠ 33 → s.len.val ≠ 65 → s.Faulted t .badLength) ∧
      (s.len.val = 65 → s.byte 0 ≠ 0x04 → s.Faulted t .secTag) ∧
      (s.len.val = 65 → s.byte 0 = 0x04 →
        (OnCurve x y → s.WritesP t rd (.pt (BitVec.ofNat 256 x) (BitVec.ofNat 256 y))) ∧
        (¬ OnCurve x y → s.Faulted t .notOnCurve)) ∧
      (s.len.val = 33 → s.byte 0 ≠ 0x02 → s.byte 0 ≠ 0x03 → s.Faulted t .secTag) ∧
      (s.len.val = 33 → s.byte 0 = 0x02 ∨ s.byte 0 = 0x03 →
        ∃ y', y' = (if beta % 2 = 0 ↔ s.byte 0 = 0x02 then beta else (Config.prime - beta) % Config.prime) ∧
          (OnCurve x y' → s.WritesP t rd (.pt (BitVec.ofNat 256 x) (BitVec.ofNat 256 y'))) ∧
          (¬ OnCurve x y' → s.Faulted t .notOnCurve))

/-- The round trip of §8: SECENC and then SECDEC give the point back, in both forms, for every normal point. -/
def Obligations.SecRoundTrip : Prop :=
  ∀ (s : State) (rd rs1 : PReg) (c : Bool), s.pointsValid → s.bufCanonical → s.readP rs1 ≠ .inf →
    ∃ t u, exec (.secenc rs1 c) s = .next t ∧ exec (.secdec rd) t = .next u ∧ u.readP rd = s.readP rs1

/-- R186 and R187: ADDR and WIF write the Base58Check text of the version byte and the hash of the SEC string, or of the
version byte and the secret; ADDR of the identity raises `E_SER_IDENTITY`, WIF never faults. -/
def Obligations.AddressAndWalletTexts : Prop :=
  ∀ (s : State) (ps1 : PReg) (rs1 : XReg) (c t : Bool), s.bufCanonical →
    (decode (formatR 0x33 0 ps1 0 0 (c.toNat + 2 * t.toNat)) = .ok (.addr ps1 c t) ∧
      ∃ u, exec (.addr ps1 c t) s = .next u ∧
        (s.readP ps1 = .inf → s.Faulted u .serIdentity) ∧
        (∀ x y, s.readP ps1 = .pt x y → u.len.val ≤ 35 ∧
          s.WritesMsg u (Base58.checkEncode ((if t then Config.verAddrTest else Config.verAddrMain) ::
            hash160 (if c then (if y.toNat % 2 = 0 then 0x02 else 0x03) :: bytesBE x.toNat 32
              else 0x04 :: (bytesBE x.toNat 32 ++ bytesBE y.toNat 32)))))) ∧
    (decode (formatR 0x34 0 rs1 0 0 (c.toNat + 2 * t.toNat)) = .ok (.wif rs1 c t) ∧
      ∃ u, exec (.wif rs1 c t) s = .next u ∧
        s.WritesMsg u (Base58.checkEncode ((if t then Config.verWifTest else Config.verWifMain) ::
          (bytesBE (s.readX rs1).toNat 32 ++ if c then [0x01] else []))))

/-! ### ECDSA (44_ecdsa) -/

/-- One candidate of NONCE: `E_BAD_LENGTH` unless `LEN = 32`; the candidate `int_be(HMAC(K, V))` is accepted in `[1, N)` and
written; otherwise the command goes on with `K` and `V` whitened, having written nothing. A command that has no loop yet
takes `K` and `V` from the two initial rounds of R203, over the secret and the digest. One candidate a step is the model's
choice (log entry 3). -/
def Obligations.NonceCandidateStep : Prop :=
  ∀ (s : State) (rd rs1 : XReg),
    decode (formatR 0x40 rd rs1 0 0 0) = .ok (.nonce rd rs1) ∧
    (s.len.val ≠ 32 → ∃ t, exec (.nonce rd rs1) s = .next t ∧ s.Faulted t .badLength) ∧
    (∀ (z c : Nat) (db zb k1 v1 k2 v2 : Bytes) (l : NonceLoop), s.len.val = 32 →
      z = (if Config.order ≤ intBE s.msg then intBE s.msg - Config.order else intBE s.msg) →
      db = bytesBE (s.readX rs1).toNat 32 → zb = bytesBE z 32 →
      k1 = hmac (List.replicate 32 0x00) (List.replicate 32 0x01 ++ [0x00] ++ db ++ zb) →
      v1 = hmac k1 (List.replicate 32 0x01) →
      k2 = hmac k1 (v1 ++ [0x01] ++ db ++ zb) → v2 = hmac k2 v1 →
      l = s.nonceLoop.getD (NonceLoop.mk k2 v2) →
      c = intBE (hmac l.k l.v) →
      ∃ t, exec (.nonce rd rs1) s = .next t ∧
        if 1 ≤ c ∧ c < Config.order then s.WritesX t rd c
        else t = { s with nonceLoop := some (NonceLoop.mk
          (hmac l.k (hmac l.k l.v ++ [0x00])) (hmac (hmac l.k (hmac l.k l.v ++ [0x00])) (hmac l.k l.v))) })

/-- NONCE completes exactly with the first accepted candidate of its loop: with `k j`, `v j` the `K` and `V` before candidate
`j`, from the two initial rounds of R203 on, if the candidates `0 .. n-1` are refused and candidate `n` is accepted, then
`n + 1` steps of the core write it. The step per candidate is the model's choice (log entry 3). -/
def Obligations.NonceCompletes : Prop :=
  ∀ (s : State) (rd rs1 : XReg) (z n : Nat) (db zb k1 v1 : Bytes) (k v : Nat → Bytes) (c : Nat → Nat),
    s.busy = true → s.hostOps = [] → s.cmd = formatR 0x40 rd rs1 0 0 0 → s.nonceLoop = none → s.len.val = 32 →
    z = (if Config.order ≤ intBE s.msg then intBE s.msg - Config.order else intBE s.msg) →
    db = bytesBE (s.readX rs1).toNat 32 → zb = bytesBE z 32 →
    k1 = hmac (List.replicate 32 0x00) (List.replicate 32 0x01 ++ [0x00] ++ db ++ zb) →
    v1 = hmac k1 (List.replicate 32 0x01) →
    k 0 = hmac k1 (v1 ++ [0x01] ++ db ++ zb) → v 0 = hmac (k 0) v1 →
    (∀ j, k (j + 1) = hmac (k j) (hmac (k j) (v j) ++ [0x00])) →
    (∀ j, v (j + 1) = hmac (k (j + 1)) (hmac (k j) (v j))) →
    (∀ j, c j = intBE (hmac (k j) (v j))) →
    (∀ j, j < n → ¬ (1 ≤ c j ∧ c j < Config.order)) → 1 ≤ c n → c n < Config.order →
    ∃ t, run (n + 1) s = some t ∧ s.WritesX t rd (c n)

/-- SIGN: with the accepted candidate `k`, `r` is the first coordinate of `k·G`, which is not the identity, and `s` is
`(z + r·d)·k⁻¹ mod N` or its low-s twin; `E_BAD_LENGTH` unless `LEN = 32`. A candidate that is not accepted leaves the command
running with its loop advanced as NONCE's is: `K` and `V` whitened by R203, nothing written. That the candidate is found
one step at a time is the model's choice (log entry 3). -/
def Obligations.SignatureValue : Prop :=
  (∀ rd rs1 : XReg, decode (formatR 0x41 rd rs1 0 rd 0) = .error .sameDestination) ∧
  ∀ (s : State) (rd rs3 rs1 : XReg), rd ≠ rs3 →
    decode (formatR 0x41 rd rs1 0 rs3 0) = .ok (.sign rd rs3 rs1) ∧
    (s.len.val ≠ 32 → ∃ t, exec (.sign rd rs3 rs1) s = .next t ∧ s.Faulted t .badLength) ∧
    (∀ (z k : Nat) (db zb k1 v1 k2 v2 : Bytes) (l : NonceLoop), s.len.val = 32 →
      z = (if Config.order ≤ intBE s.msg then intBE s.msg - Config.order else intBE s.msg) →
      db = bytesBE (s.readX rs1).toNat 32 → zb = bytesBE z 32 →
      k1 = hmac (List.replicate 32 0x00) (List.replicate 32 0x01 ++ [0x00] ++ db ++ zb) →
      v1 = hmac k1 (List.replicate 32 0x01) →
      k2 = hmac k1 (v1 ++ [0x01] ++ db ++ zb) → v2 = hmac k2 v1 →
      l = s.nonceLoop.getD (NonceLoop.mk k2 v2) →
      k = intBE (hmac l.k l.v) →
      ∃ t, exec (.sign rd rs3 rs1) s = .next t ∧
        if 1 ≤ k ∧ k < Config.order then
          ∃ (r y : Word) (ki sv : Nat),
            multiple k basePoint = .pt r y ∧
            1 ≤ ki ∧ ki < Config.order ∧ k * ki % Config.order = 1 ∧
            sv = (z + r.toNat * (s.readX rs1).toNat) * ki % Config.order ∧
            s.WritesTwoX t rd rs3 r.toNat (if sv > Config.order / 2 then Config.order - sv else sv)
        else t = { s with nonceLoop := some (NonceLoop.mk
          (hmac l.k (hmac l.k l.v ++ [0x00])) (hmac (hmac l.k (hmac l.k l.v ++ [0x00])) (hmac l.k l.v))) })

/-- SIGN completes exactly with the first accepted candidate of its loop, as NONCE does: if the candidates `0 .. n-1` are
refused and candidate `n` is accepted, then `n + 1` steps of the core write the signature with that nonce. The step per
candidate is the model's choice (log entry 3). -/
def Obligations.SignCompletes : Prop :=
  ∀ (s : State) (rd rs3 rs1 : XReg) (z n : Nat) (db zb k1 v1 : Bytes) (k v : Nat → Bytes) (c : Nat → Nat), rd ≠ rs3 →
    s.busy = true → s.hostOps = [] → s.cmd = formatR 0x41 rd rs1 0 rs3 0 → s.nonceLoop = none → s.len.val = 32 →
    z = (if Config.order ≤ intBE s.msg then intBE s.msg - Config.order else intBE s.msg) →
    db = bytesBE (s.readX rs1).toNat 32 → zb = bytesBE z 32 →
    k1 = hmac (List.replicate 32 0x00) (List.replicate 32 0x01 ++ [0x00] ++ db ++ zb) →
    v1 = hmac k1 (List.replicate 32 0x01) →
    k 0 = hmac k1 (v1 ++ [0x01] ++ db ++ zb) → v 0 = hmac (k 0) v1 →
    (∀ j, k (j + 1) = hmac (k j) (hmac (k j) (v j) ++ [0x00])) →
    (∀ j, v (j + 1) = hmac (k (j + 1)) (hmac (k j) (v j))) →
    (∀ j, c j = intBE (hmac (k j) (v j))) →
    (∀ j, j < n → ¬ (1 ≤ c j ∧ c j < Config.order)) → 1 ≤ c n → c n < Config.order →
    ∃ (t : State) (r y : Word) (ki sv : Nat), run (n + 1) s = some t ∧
      multiple (c n) basePoint = .pt r y ∧
      1 ≤ ki ∧ ki < Config.order ∧ c n * ki % Config.order = 1 ∧
      sv = (z + r.toNat * (s.readX rs1).toNat) * ki % Config.order ∧
      s.WritesTwoX t rd rs3 r.toNat (if sv > Config.order / 2 then Config.order - sv else sv)

/-- R207: VERIFY writes 1 or 0: 0 where `s mod N = 0` or `u·G + v·Q` is the identity, else whether its first coordinate is
`r`; `E_BAD_LENGTH` unless `LEN = 32`. -/
def Obligations.VerifyVerdict : Prop :=
  ∀ (s : State) (rd : XReg) (rs3 : PReg) (rs1 rs2 : XReg) (z r sv : Nat),
    z = intBE s.msg → r = (s.readX rs1).toNat → sv = (s.readX rs2).toNat →
    decode (formatR 0x42 rd rs1 rs2 rs3 0) = .ok (.verify rd rs3 rs1 rs2) ∧
    ∃ t, exec (.verify rd rs3 rs1 rs2) s = .next t ∧
      (s.len.val ≠ 32 → s.Faulted t .badLength) ∧
      (s.len.val = 32 → sv % Config.order = 0 → s.WritesX t rd 0) ∧
      (s.len.val = 32 → sv % Config.order ≠ 0 →
        ∃ si v, 1 ≤ si ∧ si < Config.order ∧ sv * si % Config.order = 1 ∧ s.WritesX t rd v ∧
          (v = 1 ↔ ∃ x y : Word, x.toNat = r ∧
            padd (pmul (z * si % Config.order) basePoint) (pmul (r * si % Config.order) (s.readP rs3)) = .pt x y) ∧
          (v = 0 ∨ v = 1))

/-- The property of §8: a signature that signing makes, with any accepted nonce, is valid under the public key of the
secret, for every secret and every 32-byte digest, unless `s = 0`. -/
def Obligations.SignedMessagesVerify : Prop :=
  ∀ (d k z : Nat) (m : Bytes), d < 2 ^ 256 → 1 ≤ k → k < Config.order → digestZ m = .ok z →
    signS d z k (signR k).toNat ≠ 0 →
    verify (pmul d basePoint) m (signR k).toNat (signS d z k (signR k).toNat) = .ok true

/-- R210, R211 and R213: the DER encoding becomes the message: minimal big-endian bytes, a zero byte before a high bit; it
is at most 72 bytes long and never faults. -/
def Obligations.DerEncode : Prop :=
  ∀ (s : State) (rs1 rs2 : XReg), s.bufCanonical →
    decode (formatR 0x43 0 rs1 rs2 0 0) = .ok (.derenc rs1 rs2) ∧
    ∃ (t : State) (b c : Bytes), exec (.derenc rs1 rs2) s = .next t ∧
      s.WritesMsg t (0x30 :: BitVec.ofNat 8 (4 + b.length + c.length) ::
        0x02 :: BitVec.ofNat 8 b.length :: (b ++ 0x02 :: BitVec.ofNat 8 c.length :: c)) ∧
      t.len.val ≤ 72 ∧
      ∀ (e : Bytes) (v : Nat), (e = b ∧ v = (s.readX rs1).toNat) ∨ (e = c ∧ v = (s.readX rs2).toNat) →
        e.length ≤ 33 ∧ intBE e = v ∧ (v = 0 → e = []) ∧
        (∀ a e', e = a :: e' → a.toNat < 0x80 ∧ (a = 0 → ∃ a' e'', e' = a' :: e'' ∧ 0x80 ≤ a'.toNat))

/-- R214, R215 and R216: DERDEC decodes the message, or raises the fault of the first failing check in reading order, the
overflow check last. -/
def Obligations.DerDecode : Prop :=
  (∀ rd : XReg, decode (formatR 0x44 rd 0 0 rd 0) = .error .sameDestination) ∧
  ∀ (s : State) (rd rs3 : XReg), rd ≠ rs3 →
    decode (formatR 0x44 rd 0 0 rs3 0) = .ok (.derdec rd rs3) ∧
    ∃ t, exec (.derdec rd rs3) s = .next t ∧
      (∀ e, derDecodeAt s.msg = .error e → s.Faulted t e) ∧
      (∀ r sv, derDecodeAt s.msg = .ok (r, sv) → s.WritesTwoX t rd rs3 r sv)

/-- The round trip of §8: DERDEC after DERENC gives both integers back, for all 256-bit values. -/
def Obligations.DerRoundTrip : Prop :=
  ∀ (s : State) (rs1 rs2 rd rs3 : XReg), s.bufCanonical → rd ≠ rs3 →
    ∃ t u, exec (.derenc rs1 rs2) s = .next t ∧ exec (.derdec rd rs3) t = .next u ∧
      u.readX rd = s.readX rs1 ∧ u.readX rs3 = s.readX rs2

/-! ### Base58 (45_base58) -/

/-- R230, R232 and R233: the character of value `v` is character number `v` of the alphabet; the Base58 text becomes the
message: a `1` for each leading zero byte, then the digits of the integer with no leading zero digit; `E_BUF_BOUNDS` if it is
longer than 256; 187 bytes always fit. The spec marks the digit values as derived (R230) and the ASCII codes as general
knowledge (R231). -/
def Obligations.Base58Encode : Prop :=
  (∀ v, v < 58 → (Base58.chr v).toNat =
    ("123456789ABCDEFGHJKLMNPQRSTUVWXYZabcdefghijkmnopqrstuvwxyz".toList.getD v ' ').toNat) ∧
  ∀ s : State, s.bufCanonical →
    decode 0x00000050 = .ok .b58enc ∧
    ∃ (t : State) (ds : List Nat), exec .b58enc s = .next t ∧
      (∀ d ∈ ds, d < 58) ∧ ds.head? ≠ some 0 ∧
      (∑ i ∈ Finset.range ds.length, ds.getD i 0 * 58 ^ (ds.length - 1 - i)) = intBE s.msg ∧
      (leading 0 s.msg + ds.length ≤ 256 →
        s.WritesMsg t (List.replicate (leading 0 s.msg) 0x31 ++ ds.map Base58.chr)) ∧
      (256 < leading 0 s.msg + ds.length → s.Faulted t .bufBounds) ∧
      (s.len.val ≤ 187 → leading 0 s.msg + ds.length ≤ 256)

/-- R235 with the function of R234: the decoded string becomes the message, or `E_B58_CHAR` where a byte of the text is no
character of the alphabet of R230, in the codes of R231. The spec marks the digit values as derived and the ASCII codes as
general knowledge. -/
def Obligations.Base58Decode : Prop :=
  (∀ v, v < 58 → (Base58.chr v).toNat =
    ("123456789ABCDEFGHJKLMNPQRSTUVWXYZabcdefghijkmnopqrstuvwxyz".toList.getD v ' ').toNat) ∧
  ∀ s : State, s.bufCanonical →
    decode 0x00000051 = .ok .b58dec ∧
    ∃ t, exec .b58dec s = .next t ∧
      ((∃ c ∈ s.msg, ∀ v, v < 58 → Base58.chr v ≠ c) → s.Faulted t .b58Char) ∧
      (∀ ds : List Nat, (∀ d ∈ ds, d < 58) → s.msg = ds.map Base58.chr →
        ∃ m : Bytes, s.WritesMsg t (List.replicate (leading 0x31 s.msg) 0x00 ++ m) ∧
          m.head? ≠ some 0 ∧
          intBE m = ∑ i ∈ Finset.range ds.length, ds.getD i 0 * 58 ^ (ds.length - 1 - i))

/-- R234 and R236: decoding inverts encoding on every byte string, encoding inverts decoding on every text over the
alphabet, and the checked decoder inverts the checked encoder on every payload. -/
def Obligations.Base58RoundTrips : Prop :=
  (∀ m : Bytes, Base58.decode (Base58.encode m) = .ok m) ∧
  (∀ t m : Bytes, Base58.decode t = .ok m → Base58.encode m = t) ∧
  (∀ p : Bytes, Base58.checkDecode (Base58.checkEncode p) = .ok p)

/-- R237 and R238: the checked text of the message, and back, with the faults in their order of priority. -/
def Obligations.Base58CheckCommands : Prop :=
  ∀ s : State, s.bufCanonical →
    (decode 0x00000052 = .ok .b58cenc ∧
      ∃ (t : State) (text : Bytes), exec .b58cenc s = .next t ∧
        text = Base58.encode (s.msg ++ (sha256 (sha256 s.msg)).take 4) ∧
        (text.length ≤ 256 → s.WritesMsg t text) ∧ (256 < text.length → s.Faulted t .bufBounds) ∧
        (s.len.val ≤ 183 → text.length ≤ 256)) ∧
    (decode 0x00000053 = .ok .b58cdec ∧
      ∃ t, exec .b58cdec s = .next t ∧
        (∀ e, Base58.decode s.msg = .error e → e = .b58Char ∧ s.Faulted t .b58Char) ∧
        (∀ d, Base58.decode s.msg = .ok d → d.length < 4 → s.Faulted t .badLength) ∧
        (∀ p chk, Base58.decode s.msg = .ok (p ++ chk) → chk.length = 4 →
          ((sha256 (sha256 p)).take 4 ≠ chk → s.Faulted t .b58Checksum) ∧
          ((sha256 (sha256 p)).take 4 = chk → s.WritesMsg t p)))

/-! ### Hashes (46_hash) -/

/-- R250 and R251: H256 and H160 replace the message by its digest; they never fault. -/
def Obligations.HashCommands : Prop :=
  ∀ s : State, s.bufCanonical →
    (decode 0x00000060 = .ok .h256 ∧
      ∃ t, exec .h256 s = .next t ∧ s.WritesMsg t (sha256 (sha256 s.msg)) ∧ t.len.val = 32) ∧
    (decode 0x00000061 = .ok .h160 ∧
      ∃ t, exec .h160 s = .next t ∧ s.WritesMsg t (ripemd160 (sha256 s.msg)) ∧ t.len.val = 20)
end

