-- ==== Sys2Proof/Laws/ByteStrings.lean ====
section
/-!
SUPPORT. Lengths and values of byte strings (00_scope R18).
-/

namespace Sys2Proof.Machine

@[simp] theorem bytesBE_length (v n : Nat) : (bytesBE v n).length = n := by
  induction n with
  | zero => rfl
  | succ n ih => simp [bytesBE, ih]

@[simp] theorem bytesLE_length (v n : Nat) : (bytesLE v n).length = n := by
  induction n generalizing v with
  | zero => rfl
  | succ n ih => simp [bytesLE, ih]

theorem intBE_foldl (s : Bytes) (acc : Nat) :
    s.foldl (fun acc b => acc * 256 + b.toNat) acc = acc * 256 ^ s.length + intBE s := by
  induction s generalizing acc with
  | nil => simp [intBE]
  | cons b s ih =>
    simp only [intBE, List.foldl_cons, List.length_cons]
    rw [ih, ih (0 * 256 + b.toNat)]
    ring

@[simp] theorem intBE_nil : intBE [] = 0 := rfl

theorem intBE_cons (b : Byte) (s : Bytes) : intBE (b :: s) = b.toNat * 256 ^ s.length + intBE s := by
  rw [intBE, List.foldl_cons, intBE_foldl, Nat.zero_mul, Nat.zero_add]

theorem intBE_append (s t : Bytes) : intBE (s ++ t) = intBE s * 256 ^ t.length + intBE t := by
  rw [intBE, List.foldl_append, intBE_foldl]
  rfl

theorem intBE_lt (s : Bytes) : intBE s < 256 ^ s.length := by
  induction s with
  | nil => simp
  | cons b s ih =>
    rw [intBE_cons, List.length_cons, Nat.pow_succ]
    have := b.isLt
    nlinarith

/-- `int_be(bytes_be(v, n)) = v mod 256^n`; it is `v` when `v < 256^n` (R18). -/
theorem intBE_bytesBE (v n : Nat) : intBE (bytesBE v n) = v % 256 ^ n := by
  induction n with
  | zero => simp [bytesBE, Nat.mod_one]
  | succ n ih =>
    rw [bytesBE, intBE_cons, ih, bytesBE_length, BitVec.toNat_ofNat, Nat.pow_succ 256, Nat.mod_mul]
    show v / 256 ^ n % 256 * 256 ^ n + v % 256 ^ n = v % 256 ^ n + 256 ^ n * (v / 256 ^ n % 256)
    ring

theorem intLE_lt (s : Bytes) : intLE s < 256 ^ s.length := by
  induction s with
  | nil => simp [intLE]
  | cons b s ih =>
    rw [intLE, List.length_cons, Nat.pow_succ]
    have := b.isLt
    omega

theorem intLE_bytesLE (v n : Nat) : intLE (bytesLE v n) = v % 256 ^ n := by
  induction n generalizing v with
  | zero => simp [bytesLE, intLE, Nat.mod_one]
  | succ n ih =>
    rw [bytesLE, intLE, ih, BitVec.toNat_ofNat, Nat.pow_succ 256, Nat.mul_comm (256 ^ n) 256, Nat.mod_mul]

@[simp] theorem intBE_strip0 (s : Bytes) : intBE (strip0 s) = intBE s := by
  induction s with
  | nil => rfl
  | cons b s ih =>
    unfold strip0
    split
    · simp_all [intBE_cons]
    · rfl

theorem strip0_length_le (s : Bytes) : (strip0 s).length ≤ s.length := by
  induction s with
  | nil => exact Nat.le_refl _
  | cons b s ih =>
    unfold strip0
    split
    · simp only [List.length_cons]; omega
    · exact Nat.le_refl _

/-- A stripped string has no leading zero byte, so its value is at least `256^(length - 1)`. -/
theorem pow_le_intBE_strip0 (s : Bytes) (h : strip0 s ≠ []) : 256 ^ ((strip0 s).length - 1) ≤ intBE s := by
  induction s with
  | nil => simp [strip0] at h
  | cons b s ih =>
    unfold strip0 at h ⊢
    split
    · rename_i hb
      rw [if_pos hb] at h
      simpa [intBE_cons, hb] using ih h
    · rename_i hb
      have hb' : 1 ≤ b.toNat := by
        rcases Nat.eq_zero_or_pos b.toNat with h0 | h0
        · exact absurd (BitVec.eq_of_toNat_eq (by simpa using h0)) hb
        · exact h0
      rw [intBE_cons, List.length_cons, Nat.add_sub_cancel]
      nlinarith [Nat.pos_of_ne_zero (pow_ne_zero s.length (by decide : (256 : Nat) ≠ 0))]

/-- The stripped string of a value below `256^k` has at most `k` bytes. -/
theorem strip0_length_le_of_lt (s : Bytes) (k : Nat) (h : intBE s < 256 ^ k) : (strip0 s).length ≤ k := by
  by_contra hlt
  push Not at hlt
  have hne : strip0 s ≠ [] := by
    intro e
    simp [e] at hlt
  have := pow_le_intBE_strip0 s hne
  have := Nat.pow_le_pow_right (by decide : 0 < 256) (show k ≤ (strip0 s).length - 1 by omega)
  omega

theorem leading_le (b : Byte) (s : Bytes) : leading b s ≤ s.length := by
  induction s with
  | nil => exact Nat.le_refl _
  | cons c s ih =>
    unfold leading
    split
    · simp only [List.length_cons]; omega
    · exact Nat.zero_le _

end Sys2Proof.Machine
end

