-- ==== Sys2Proof/Laws/HashFunctions.lean ====
section
/-!
SUPPORT. The output lengths of the hash functions (46_hash R252 to R254).
-/

namespace Sys2Proof.Machine

@[simp] theorem sha256_length (m : Bytes) : (sha256 m).length = 32 := by simp [sha256, Sha.output]

@[simp] theorem ripemd160_length (m : Bytes) : (ripemd160 m).length = 20 := by simp [ripemd160, Ripemd.output]

@[simp] theorem hmac_length (key msg : Bytes) : (hmac key msg).length = 32 := by simp [hmac]

@[simp] theorem hash256_length (m : Bytes) : (hash256 m).length = 32 := by simp [hash256]

@[simp] theorem hash160_length (m : Bytes) : (hash160 m).length = 20 := by simp [hash160]

end Sys2Proof.Machine
end

