-- ==== Sys2Proof/Laws/Base58Functions.lean ====
section
/-!
SUPPORT. Digits, values and lengths of the Base58 codec (45_base58 R232 to R236).
-/

namespace Sys2Proof.Machine.Base58

theorem digits_length_le (fuel v : Nat) (acc : List Nat) : (digits fuel v acc).length ≤ fuel + acc.length := by
  induction fuel generalizing v acc with
  | zero => simp [digits]
  | succ fuel ih =>
    unfold digits
    split
    · omega
    · have := ih (v / 58) (v % 58 :: acc)
      simp only [List.length_cons] at this
      omega

theorem value_foldl (ds : List Nat) (acc : Nat) :
    ds.foldl (fun acc d => acc * 58 + d) acc = acc * 58 ^ ds.length + value ds := by
  induction ds generalizing acc with
  | nil => simp [value]
  | cons d ds ih =>
    simp only [value, List.foldl_cons, List.length_cons]
    rw [ih, ih (0 * 58 + d)]
    ring

theorem value_cons (d : Nat) (ds : List Nat) : value (d :: ds) = d * 58 ^ ds.length + value ds := by
  rw [value, List.foldl_cons, value_foldl, Nat.zero_mul, Nat.zero_add]

/-- `Σ d[i]·58^(n-1-i)` (R232, R234). -/
theorem sum_eq_value (ds : List Nat) :
    ∑ i ∈ Finset.range ds.length, ds.getD i 0 * 58 ^ (ds.length - 1 - i) = value ds := by
  induction ds with
  | nil => rfl
  | cons d ds ih =>
    rw [value_cons, List.length_cons, Finset.sum_range_succ', ← ih, Nat.add_comm]
    simp only [List.getD_cons_succ, List.getD_cons_zero, Nat.add_sub_cancel, Nat.sub_zero]
    congr 1
    exact Finset.sum_congr rfl fun i hi => by rw [show ds.length - (i + 1) = ds.length - 1 - i by omega]

/-- The digits of `v` in front of `acc` have the value of `v` in front of `acc`, when the fuel suffices. -/
theorem value_digits (fuel v : Nat) (acc : List Nat) (h : v < 58 ^ fuel) :
    value (digits fuel v acc) = v * 58 ^ acc.length + value acc := by
  induction fuel generalizing v acc with
  | zero =>
    have : v = 0 := by simpa using h
    simp [digits, this]
  | succ fuel ih =>
    unfold digits
    split
    · simp_all
    · rw [ih _ _ (by rw [Nat.pow_succ] at h; omega), value_cons, List.length_cons, Nat.pow_succ]
      have e : v = 58 * (v / 58) + v % 58 := (Nat.div_add_mod v 58).symm
      conv_rhs => rw [e]
      ring

/-- `2·n` digits are enough for `n` bytes (log entry 21). -/
theorem intBE_lt_pow58 (m : Bytes) : intBE m < 58 ^ (2 * m.length) :=
  Nat.lt_of_lt_of_le (intBE_lt m) (by
    rw [Nat.pow_mul]
    exact Nat.pow_le_pow_left (by decide) _)

/-- An encoded text has at most three characters per byte. -/
theorem encode_length_le (m : Bytes) : (encode m).length ≤ 3 * m.length := by
  have := leading_le 0 m
  have := digits_length_le (2 * m.length) (intBE m) []
  simp only [List.length_nil] at this
  simp only [encode, List.length_append, List.length_replicate, List.length_map]
  omega

theorem val_lt {c : Byte} {d : Nat} (h : val c = some d) : d < 58 := by
  have := (List.findIdx?_eq_some_iff_findIdx_eq.1 h).1
  simpa [alphabet] using this

theorem mapM_val_cons {c : Byte} {t : Bytes} {ds : List Nat} (h : (c :: t).mapM val = some ds) :
    ∃ d ds', val c = some d ∧ t.mapM val = some ds' ∧ ds = d :: ds' := by
  rw [List.mapM_cons] at h
  simp only [Option.bind_eq_bind, Option.bind_eq_some_iff] at h
  obtain ⟨d, hd, ds', hds, e⟩ := h
  exact ⟨d, ds', hd, hds, by simpa using e.symm⟩

theorem val_one : val (chr 0) = some 0 := by decide

/-- The value of a text: its leading `1` characters add nothing, and each other character one digit. -/
theorem value_lt {t : Bytes} {ds : List Nat} (h : t.mapM val = some ds) :
    value ds < 58 ^ (t.length - leading (chr 0) t) ∧ ds.length = t.length := by
  induction t generalizing ds with
  | nil =>
    have : ds = [] := by simpa using h.symm
    subst this
    simp [value, leading]
  | cons c t ih =>
    obtain ⟨d, ds', hd, hds, rfl⟩ := mapM_val_cons h
    obtain ⟨hv, hl⟩ := ih hds
    have hlead := leading_le (chr 0) t
    refine ⟨?_, by simp [hl]⟩
    rw [value_cons, hl]
    unfold leading
    split
    · rename_i e
      rw [e, val_one] at hd
      cases hd
      simpa using hv
    · have h58 : value ds' < 58 ^ t.length :=
        Nat.lt_of_lt_of_le hv (Nat.pow_le_pow_right (by decide) (by omega))
      have hd58 := val_lt hd
      rw [Nat.sub_zero, List.length_cons, Nat.pow_succ]
      nlinarith

/-- A decoded string is never longer than its text (R234). -/
theorem decode_length_le {t d : Bytes} (h : decode t = .ok d) : d.length ≤ t.length := by
  unfold decode at h
  split at h
  · cases h
  · rename_i ds hds
    cases h
    obtain ⟨hv, -⟩ := value_lt hds
    have hlead := leading_le (chr 0) t
    have hlt : intBE (bytesBE (value ds) t.length) < 256 ^ (t.length - leading (chr 0) t) := by
      rw [intBE_bytesBE]
      exact Nat.lt_of_le_of_lt (Nat.mod_le _ _) (Nat.lt_of_lt_of_le hv (Nat.pow_le_pow_left (by decide) _))
    have := strip0_length_le_of_lt _ _ hlt
    simp only [List.length_append, List.length_replicate]
    omega

theorem checkEncode_length_le (p : Bytes) : (checkEncode p).length ≤ 3 * (p.length + 4) := by
  refine Nat.le_trans (encode_length_le _) ?_
  have : (checksum p).length ≤ 4 := by simp [checksum]
  simp only [List.length_append]
  omega

theorem checkDecode_length_le {t p : Bytes} (h : checkDecode t = .ok p) : p.length ≤ t.length := by
  unfold checkDecode at h
  split at h
  · cases h
  · rename_i d hd
    have := decode_length_le hd
    split at h
    · cases h
    · split at h
      · cases h
      · cases h
        simp only [List.length_take]
        omega

end Sys2Proof.Machine.Base58
end

