-- ==== Sys2Proof/Laws/EcdsaFunctions.lean ====
section
/-!
SUPPORT. The digest and the nonce generator's two rounds written out, lengths of its strings and of DER encodings
(44_ecdsa R200, R203, R210, R211).
-/

namespace Sys2Proof.Machine

/-- A 32-byte digest is taken with one conditional subtraction (R200). -/
theorem digestZ_eq {m : Bytes} (h : m.length = 32) :
    digestZ m = .ok (if intBE m ≥ Config.order then intBE m - Config.order else intBE m) := by
  rw [digestZ, if_neg (by simpa using h)]

/-- The two initial rounds from 32 bytes 00 and 32 bytes 01 (R203). -/
theorem nonceSeed_eq {d z : Nat} {k1 v1 k2 v2 : Bytes}
    (hk1 : k1 = hmac (List.replicate 32 0x00) (List.replicate 32 0x01 ++ [0x00] ++ bytesBE d 32 ++ bytesBE z 32))
    (hv1 : v1 = hmac k1 (List.replicate 32 0x01))
    (hk2 : k2 = hmac k1 (v1 ++ [0x01] ++ bytesBE d 32 ++ bytesBE z 32)) (hv2 : v2 = hmac k2 v1) :
    nonceSeed d z = ⟨k2, v2⟩ := by
  subst hv2 hk2 hv1 hk1; rfl

theorem nonceRetry_length (l : NonceLoop) : (nonceRetry l).k.length = 32 ∧ (nonceRetry l).v.length = 32 := by
  simp [nonceRetry]

theorem nonceSeed_length (d z : Nat) : (nonceSeed d z).k.length = 32 ∧ (nonceSeed d z).v.length = 32 := by
  simp [nonceSeed, nonceRound]

namespace Der

theorem content_eq (v : Nat) :
    content v = if (strip0 (bytesBE v 32)).headD 0 ≥ 0x80 then 0x00 :: strip0 (bytesBE v 32)
      else strip0 (bytesBE v 32) := rfl

/-- "`|b| ≤ 33`" (R210). -/
theorem content_length_le (v : Nat) : (content v).length ≤ 33 := by
  have := strip0_length_le (bytesBE v 32)
  rw [bytesBE_length] at this
  rw [content_eq]
  split
  · rw [List.length_cons]; omega
  · omega

/-- "the encoding is 6 to 72 bytes long" (R211). -/
theorem encode_length_le (r s : Nat) : (encode r s).length ≤ 72 := by
  have := content_length_le r
  have := content_length_le s
  simp only [encode, int, List.length_cons, List.length_append]
  omega

end Der

end Sys2Proof.Machine
end

