-- ==== Sys2Proof/Laws/KeyFunctions.lean ====
section
/-!
SUPPORT. Lengths of SEC strings and texts (43_keys R181, R186, R187).
-/

namespace Sys2Proof.Machine

theorem sec_length {q : Point} {c : Bool} {bs : Bytes} (h : sec q c = .ok bs) :
    bs.length = if c then 33 else 65 := by
  cases q with
  | inf => cases h
  | pt x y =>
    cases h
    cases c <;> simp

theorem addressText_length_le (s : Bytes) (t : Bool) : (addressText s t).length ≤ 75 := by
  have := Base58.checkEncode_length_le (verAddr t :: hash160 s)
  simpa [addressText] using this

theorem wifText_length_le (secret : Word) (c t : Bool) : (wifText secret c t).length ≤ 114 := by
  have := Base58.checkEncode_length_le (verWif t :: (bytesBE secret.toNat 32 ++ if c then [0x01] else []))
  refine Nat.le_trans this ?_
  cases c <;> simp

end Sys2Proof.Machine
end

