-- ==== Sys2Proof/Laws/Memory.lean ====
section
/-!
SUPPORT. The laws of the buffer: reading after writing, the frame of a write, and that every memory operation keeps
the canonical form.
-/

namespace Sys2Proof.Machine.Memory

variable (m : Memory)

theorem readByte_cons (c : Host.Cell) (a : Nat) :
    readByte (c :: m) a = if c.1 = a then c.2 else readByte m a := rfl

theorem wfFrom_cons {c : Host.Cell} {lo : Nat} :
    wfFrom lo (c :: m) = true ↔ lo ≤ c.1 ∧ c.1 < 256 ∧ c.2 ≠ 0 ∧ wfFrom (c.1 + 1) m = true := by
  simp [wfFrom, and_assoc]

theorem readByte_of_wfFrom {m : Memory} {lo a : Nat} (h : wfFrom lo m = true) (ha : a < lo) : readByte m a = 0 := by
  induction m generalizing lo with
  | nil => rfl
  | cons c m ih =>
    obtain ⟨h0, -, -, h2⟩ := (wfFrom_cons m).1 h
    rw [readByte_cons, if_neg (by omega)]
    exact ih h2 (by omega)

/-- A canonical list read after a byte was written. -/
theorem readByte_writeByte {m : Memory} {lo : Nat} (h : wfFrom lo m = true) (a : Nat) (b : Byte) (a' : Nat) :
    readByte (writeByte m a b) a' = if a' = a then b else readByte m a' := by
  induction m generalizing lo with
  | nil =>
    by_cases hb : b = 0
    · subst hb
      simp [writeByte, readByte]
    · rw [writeByte, if_neg hb, readByte_cons]
      exact if_congr eq_comm rfl rfl
  | cons c m ih =>
    obtain ⟨-, -, -, h2⟩ := (wfFrom_cons m).1 h
    have hz : ∀ k, k < c.1 + 1 → readByte m k = 0 := fun k hk => readByte_of_wfFrom h2 hk
    unfold writeByte
    by_cases hlt : a < c.1
    · rw [if_pos hlt]
      by_cases hb : b = 0
      · rw [if_pos hb]
        by_cases e : a' = a
        · rw [if_pos e, readByte_cons, if_neg (by omega), hz a' (by omega), hb]
        · rw [if_neg e]
      · rw [if_neg hb, readByte_cons]
        exact if_congr eq_comm rfl rfl
    · rw [if_neg hlt]
      by_cases heq : a = c.1
      · rw [if_pos heq]
        by_cases hb : b = 0
        · rw [if_pos hb, readByte_cons]
          by_cases e : a' = a
          · rw [if_pos e, hz a' (by omega), hb]
          · rw [if_neg e, if_neg (by omega)]
        · rw [if_neg hb, readByte_cons, readByte_cons]
          by_cases e : a' = a
          · rw [if_pos e, if_pos e.symm]
          · rw [if_neg e, if_neg (Ne.symm e), if_neg (by omega)]
      · rw [if_neg heq, readByte_cons, readByte_cons, ih h2]
        by_cases e : a' = a
        · rw [if_pos e, if_pos e, if_neg (by omega)]
        · rw [if_neg e, if_neg e]

theorem wfFrom_mono {m : Memory} {lo lo' : Nat} (h : wfFrom lo m = true) (hl : lo' ≤ lo) : wfFrom lo' m = true := by
  cases m with
  | nil => rfl
  | cons c m =>
    obtain ⟨h0, h1, hc, h2⟩ := (wfFrom_cons m).1 h
    exact (wfFrom_cons m).2 ⟨by omega, h1, hc, h2⟩

theorem writeByte_wfFrom {m : Memory} {lo a : Nat} {b : Byte} (h : wfFrom lo m = true) (hl : lo ≤ a) (ha : a < 256) :
    wfFrom lo (writeByte m a b) = true := by
  induction m generalizing lo with
  | nil =>
    by_cases hb : b = 0
    · rw [writeByte, if_pos hb]; rfl
    · rw [writeByte, if_neg hb]
      exact (wfFrom_cons []).2 ⟨hl, ha, hb, rfl⟩
  | cons c m ih =>
    obtain ⟨h0, h1, hc, h2⟩ := (wfFrom_cons m).1 h
    unfold writeByte
    by_cases hlt : a < c.1
    · rw [if_pos hlt]
      by_cases hb : b = 0
      · rwa [if_pos hb]
      · rw [if_neg hb]
        exact (wfFrom_cons _).2 ⟨hl, ha, hb, (wfFrom_cons m).2 ⟨hlt, h1, hc, h2⟩⟩
    · rw [if_neg hlt]
      by_cases heq : a = c.1
      · rw [if_pos heq]
        by_cases hb : b = 0
        · rw [if_pos hb]
          exact wfFrom_mono h2 (by omega)
        · rw [if_neg hb]
          exact (wfFrom_cons _).2 ⟨hl, ha, hb, heq ▸ h2⟩
      · rw [if_neg heq]
        exact (wfFrom_cons _).2 ⟨h0, h1, hc, ih h2 (by omega)⟩

/-- Writing a byte inside the buffer keeps the canonical form. -/
theorem writeByte_wf {m : Memory} {a : Nat} {b : Byte} (h : wf m = true) (ha : a < 256) :
    wf (writeByte m a b) = true :=
  writeByte_wfFrom h (Nat.zero_le _) ha

/-- Writing a string inside the buffer keeps the canonical form. -/
theorem writeBytes_wf {m : Memory} {k : Nat} {s : Bytes} (h : wf m = true) (hs : k + s.length ≤ 256) :
    wf (writeBytes m k s) = true := by
  induction s generalizing m k with
  | nil => exact h
  | cons b s ih =>
    simp only [List.length_cons] at hs
    exact ih (writeByte_wf h (by omega)) (by omega)

theorem reset_wf : wf State.reset.buf = true := rfl

/-- A byte of the buffer after a string was written at `k`: the string's byte inside the written range, the old byte
outside it. -/
theorem readByte_writeBytes {m : Memory} {k : Nat} {s : Bytes} (h : wf m = true) (hs : k + s.length ≤ 256) (a : Nat) :
    readByte (writeBytes m k s) a = if k ≤ a ∧ a < k + s.length then s.getD (a - k) 0 else readByte m a := by
  induction s generalizing m k with
  | nil =>
    rw [if_neg (by simp)]
    rfl
  | cons b s ih =>
    simp only [List.length_cons] at hs ⊢
    rw [writeBytes, ih (writeByte_wf h (by omega)) (by omega), readByte_writeByte h]
    rcases Nat.lt_trichotomy a k with hlt | heq | hgt
    · rw [if_neg (by omega), if_neg (by omega), if_neg (by omega)]
    · subst heq
      rw [if_neg (by omega), if_pos rfl, if_pos (by omega), Nat.sub_self]
      rfl
    · have e : a - k = (a - (k + 1)) + 1 := by omega
      rw [if_neg (show a ≠ k by omega), e, List.getD_cons_succ]
      by_cases hin : a < k + 1 + s.length
      · rw [if_pos (by omega), if_pos (by omega)]
      · rw [if_neg (by omega), if_neg (by omega)]

@[simp] theorem readBytes_length (k n : Nat) : (readBytes m k n).length = n := by
  induction n generalizing k with
  | zero => rfl
  | succ n ih => simp [readBytes, ih]

theorem readBytes_getD (k n i : Nat) (hi : i < n) : (readBytes m k n).getD i 0 = readByte m (k + i) := by
  induction n generalizing k i with
  | zero => omega
  | succ n ih =>
    cases i with
    | zero => simp [readBytes]
    | succ i => rw [readBytes, List.getD_cons_succ, ih (k + 1) i (by omega), Nat.add_right_comm, Nat.add_assoc]

/-- A string read back where it was written. -/
theorem readBytes_writeBytes {m : Memory} {k : Nat} {s : Bytes} (h : wf m = true) (hs : k + s.length ≤ 256) :
    readBytes (writeBytes m k s) k s.length = s := by
  apply List.ext_getElem (by simp)
  intro i h1 h2
  have e := readBytes_getD (writeBytes m k s) k s.length i h2
  rw [readByte_writeBytes h hs, if_pos (by omega), Nat.add_sub_cancel_left] at e
  simpa [List.getD_eq_getElem?_getD, h1, h2] using e

end Sys2Proof.Machine.Memory

namespace Sys2Proof.Machine

/-- The message is always `LEN` bytes long. -/
@[simp] theorem State.msg_length (s : State) : s.msg.length = s.len.val := by simp [State.msg]

/-- The message that `SetMsg` leaves. -/
theorem State.msg_withMsg {s : State} {bs : Bytes} (h : bs.length ≤ 256) (hw : Memory.wf s.buf = true) :
    (s.withMsg bs h).msg = bs :=
  Memory.readBytes_writeBytes hw (by omega)

end Sys2Proof.Machine
end

