-- ==== Sys2Proof/Laws/State.lean ====
section
/-!
SUPPORT. What each update of the state does to each field: one lemma per field per update, true by `rfl`.
-/

namespace Sys2Proof.Machine

variable (s : State)

/-! ### `X[i] <- v` -/

@[simp] theorem State.writeX_x (i : XReg) (v : Word) : (s.writeX i v).x = s.x.set i v := rfl
@[simp] theorem State.writeX_p (i : XReg) (v : Word) : (s.writeX i v).p = s.p := rfl
@[simp] theorem State.writeX_buf (i : XReg) (v : Word) : (s.writeX i v).buf = s.buf := rfl
@[simp] theorem State.writeX_len (i : XReg) (v : Word) : (s.writeX i v).len = s.len := rfl
@[simp] theorem State.writeX_cmd (i : XReg) (v : Word) : (s.writeX i v).cmd = s.cmd := rfl
@[simp] theorem State.writeX_busy (i : XReg) (v : Word) : (s.writeX i v).busy = s.busy := rfl
@[simp] theorem State.writeX_done (i : XReg) (v : Word) : (s.writeX i v).done = s.done := rfl
@[simp] theorem State.writeX_err (i : XReg) (v : Word) : (s.writeX i v).err = s.err := rfl
@[simp] theorem State.writeX_ie (i : XReg) (v : Word) : (s.writeX i v).ie = s.ie := rfl
@[simp] theorem State.writeX_ecmd (i : XReg) (v : Word) : (s.writeX i v).ecmd = s.ecmd := rfl
@[simp] theorem State.writeX_nonceLoop (i : XReg) (v : Word) : (s.writeX i v).nonceLoop = s.nonceLoop := rfl
@[simp] theorem State.writeX_hostOps (i : XReg) (v : Word) : (s.writeX i v).hostOps = s.hostOps := rfl
@[simp] theorem State.writeX_reply (i : XReg) (v : Word) : (s.writeX i v).reply = s.reply := rfl
@[simp] theorem State.writeX_draws (i : XReg) (v : Word) : (s.writeX i v).draws = s.draws := rfl

/-! ### `P[i] <- v` -/

@[simp] theorem State.writeP_x (i : PReg) (v : Point) : (s.writeP i v).x = s.x := rfl
@[simp] theorem State.writeP_p (i : PReg) (v : Point) : (s.writeP i v).p = s.p.set i v := rfl
@[simp] theorem State.writeP_buf (i : PReg) (v : Point) : (s.writeP i v).buf = s.buf := rfl
@[simp] theorem State.writeP_len (i : PReg) (v : Point) : (s.writeP i v).len = s.len := rfl
@[simp] theorem State.writeP_cmd (i : PReg) (v : Point) : (s.writeP i v).cmd = s.cmd := rfl
@[simp] theorem State.writeP_busy (i : PReg) (v : Point) : (s.writeP i v).busy = s.busy := rfl
@[simp] theorem State.writeP_done (i : PReg) (v : Point) : (s.writeP i v).done = s.done := rfl
@[simp] theorem State.writeP_err (i : PReg) (v : Point) : (s.writeP i v).err = s.err := rfl
@[simp] theorem State.writeP_ie (i : PReg) (v : Point) : (s.writeP i v).ie = s.ie := rfl
@[simp] theorem State.writeP_ecmd (i : PReg) (v : Point) : (s.writeP i v).ecmd = s.ecmd := rfl
@[simp] theorem State.writeP_nonceLoop (i : PReg) (v : Point) : (s.writeP i v).nonceLoop = s.nonceLoop := rfl
@[simp] theorem State.writeP_hostOps (i : PReg) (v : Point) : (s.writeP i v).hostOps = s.hostOps := rfl
@[simp] theorem State.writeP_reply (i : PReg) (v : Point) : (s.writeP i v).reply = s.reply := rfl
@[simp] theorem State.writeP_draws (i : PReg) (v : Point) : (s.writeP i v).draws = s.draws := rfl

/-! ### `SetMsg` -/

@[simp] theorem State.withMsg_x (bs : Bytes) (h : bs.length ≤ 256) : (s.withMsg bs h).x = s.x := rfl
@[simp] theorem State.withMsg_p (bs : Bytes) (h : bs.length ≤ 256) : (s.withMsg bs h).p = s.p := rfl
@[simp] theorem State.withMsg_buf (bs : Bytes) (h : bs.length ≤ 256) : (s.withMsg bs h).buf = Memory.writeBytes s.buf 0 bs := rfl
@[simp] theorem State.withMsg_len (bs : Bytes) (h : bs.length ≤ 256) : (s.withMsg bs h).len = ⟨bs.length, Nat.lt_succ_of_le h⟩ := rfl
@[simp] theorem State.withMsg_cmd (bs : Bytes) (h : bs.length ≤ 256) : (s.withMsg bs h).cmd = s.cmd := rfl
@[simp] theorem State.withMsg_busy (bs : Bytes) (h : bs.length ≤ 256) : (s.withMsg bs h).busy = s.busy := rfl
@[simp] theorem State.withMsg_done (bs : Bytes) (h : bs.length ≤ 256) : (s.withMsg bs h).done = s.done := rfl
@[simp] theorem State.withMsg_err (bs : Bytes) (h : bs.length ≤ 256) : (s.withMsg bs h).err = s.err := rfl
@[simp] theorem State.withMsg_ie (bs : Bytes) (h : bs.length ≤ 256) : (s.withMsg bs h).ie = s.ie := rfl
@[simp] theorem State.withMsg_ecmd (bs : Bytes) (h : bs.length ≤ 256) : (s.withMsg bs h).ecmd = s.ecmd := rfl
@[simp] theorem State.withMsg_nonceLoop (bs : Bytes) (h : bs.length ≤ 256) : (s.withMsg bs h).nonceLoop = s.nonceLoop := rfl
@[simp] theorem State.withMsg_hostOps (bs : Bytes) (h : bs.length ≤ 256) : (s.withMsg bs h).hostOps = s.hostOps := rfl
@[simp] theorem State.withMsg_reply (bs : Bytes) (h : bs.length ≤ 256) : (s.withMsg bs h).reply = s.reply := rfl
@[simp] theorem State.withMsg_draws (bs : Bytes) (h : bs.length ≤ 256) : (s.withMsg bs h).draws = s.draws := rfl

/-! ### the end of a command -/

@[simp] theorem State.complete_x : (s.complete).x = s.x := rfl
@[simp] theorem State.complete_p : (s.complete).p = s.p := rfl
@[simp] theorem State.complete_buf : (s.complete).buf = s.buf := rfl
@[simp] theorem State.complete_len : (s.complete).len = s.len := rfl
@[simp] theorem State.complete_cmd : (s.complete).cmd = s.cmd := rfl
@[simp] theorem State.complete_busy : (s.complete).busy = false := rfl
@[simp] theorem State.complete_done : (s.complete).done = true := rfl
@[simp] theorem State.complete_err : (s.complete).err = s.err := rfl
@[simp] theorem State.complete_ie : (s.complete).ie = s.ie := rfl
@[simp] theorem State.complete_ecmd : (s.complete).ecmd = s.ecmd := rfl
@[simp] theorem State.complete_nonceLoop : (s.complete).nonceLoop = none := rfl
@[simp] theorem State.complete_hostOps : (s.complete).hostOps = s.hostOps := rfl
@[simp] theorem State.complete_reply : (s.complete).reply = s.reply := rfl
@[simp] theorem State.complete_draws : (s.complete).draws = s.draws := rfl

/-! ### fault entry -/

@[simp] theorem State.takeFault_x (e : ErrCode) : (s.takeFault e).x = s.x := rfl
@[simp] theorem State.takeFault_p (e : ErrCode) : (s.takeFault e).p = s.p := rfl
@[simp] theorem State.takeFault_buf (e : ErrCode) : (s.takeFault e).buf = s.buf := rfl
@[simp] theorem State.takeFault_len (e : ErrCode) : (s.takeFault e).len = s.len := rfl
@[simp] theorem State.takeFault_cmd (e : ErrCode) : (s.takeFault e).cmd = s.cmd := rfl
@[simp] theorem State.takeFault_busy (e : ErrCode) : (s.takeFault e).busy = false := rfl
@[simp] theorem State.takeFault_done (e : ErrCode) : (s.takeFault e).done = true := rfl
@[simp] theorem State.takeFault_err (e : ErrCode) : (s.takeFault e).err = e.code := rfl
@[simp] theorem State.takeFault_ie (e : ErrCode) : (s.takeFault e).ie = s.ie := rfl
@[simp] theorem State.takeFault_ecmd (e : ErrCode) : (s.takeFault e).ecmd = s.cmd := rfl
@[simp] theorem State.takeFault_nonceLoop (e : ErrCode) : (s.takeFault e).nonceLoop = none := rfl
@[simp] theorem State.takeFault_hostOps (e : ErrCode) : (s.takeFault e).hostOps = s.hostOps := rfl
@[simp] theorem State.takeFault_reply (e : ErrCode) : (s.takeFault e).reply = s.reply := rfl
@[simp] theorem State.takeFault_draws (e : ErrCode) : (s.takeFault e).draws = s.draws := rfl

/-! ### `CLRERR` -/

@[simp] theorem State.clearFault_x : (s.clearFault).x = s.x := rfl
@[simp] theorem State.clearFault_p : (s.clearFault).p = s.p := rfl
@[simp] theorem State.clearFault_buf : (s.clearFault).buf = s.buf := rfl
@[simp] theorem State.clearFault_len : (s.clearFault).len = s.len := rfl
@[simp] theorem State.clearFault_cmd : (s.clearFault).cmd = s.cmd := rfl
@[simp] theorem State.clearFault_busy : (s.clearFault).busy = s.busy := rfl
@[simp] theorem State.clearFault_done : (s.clearFault).done = s.done := rfl
@[simp] theorem State.clearFault_err : (s.clearFault).err = 0 := rfl
@[simp] theorem State.clearFault_ie : (s.clearFault).ie = s.ie := rfl
@[simp] theorem State.clearFault_ecmd : (s.clearFault).ecmd = s.ecmd := rfl
@[simp] theorem State.clearFault_nonceLoop : (s.clearFault).nonceLoop = s.nonceLoop := rfl
@[simp] theorem State.clearFault_hostOps : (s.clearFault).hostOps = s.hostOps := rfl
@[simp] theorem State.clearFault_reply : (s.clearFault).reply = s.reply := rfl
@[simp] theorem State.clearFault_draws : (s.clearFault).draws = s.draws := rfl

/-! ### the issue of a command -/

@[simp] theorem State.issue_x (w : Word32) : (s.issue w).x = s.x := rfl
@[simp] theorem State.issue_p (w : Word32) : (s.issue w).p = s.p := rfl
@[simp] theorem State.issue_buf (w : Word32) : (s.issue w).buf = s.buf := rfl
@[simp] theorem State.issue_len (w : Word32) : (s.issue w).len = s.len := rfl
@[simp] theorem State.issue_cmd (w : Word32) : (s.issue w).cmd = w := rfl
@[simp] theorem State.issue_busy (w : Word32) : (s.issue w).busy = true := rfl
@[simp] theorem State.issue_done (w : Word32) : (s.issue w).done = false := rfl
@[simp] theorem State.issue_err (w : Word32) : (s.issue w).err = s.err := rfl
@[simp] theorem State.issue_ie (w : Word32) : (s.issue w).ie = s.ie := rfl
@[simp] theorem State.issue_ecmd (w : Word32) : (s.issue w).ecmd = s.ecmd := rfl
@[simp] theorem State.issue_nonceLoop (w : Word32) : (s.issue w).nonceLoop = none := rfl
@[simp] theorem State.issue_hostOps (w : Word32) : (s.issue w).hostOps = s.hostOps := rfl
@[simp] theorem State.issue_reply (w : Word32) : (s.issue w).reply = s.reply := rfl
@[simp] theorem State.issue_draws (w : Word32) : (s.issue w).draws = s.draws := rfl

/-! ### reset -/

@[simp] theorem State.hardReset_x : (s.hardReset).x = Vector.replicate 16 0 := rfl
@[simp] theorem State.hardReset_p : (s.hardReset).p = Vector.replicate 4 .inf := rfl
@[simp] theorem State.hardReset_buf : (s.hardReset).buf = [] := rfl
@[simp] theorem State.hardReset_len : (s.hardReset).len = 0 := rfl
@[simp] theorem State.hardReset_cmd : (s.hardReset).cmd = 0 := rfl
@[simp] theorem State.hardReset_busy : (s.hardReset).busy = false := rfl
@[simp] theorem State.hardReset_done : (s.hardReset).done = false := rfl
@[simp] theorem State.hardReset_err : (s.hardReset).err = 0 := rfl
@[simp] theorem State.hardReset_ie : (s.hardReset).ie = false := rfl
@[simp] theorem State.hardReset_ecmd : (s.hardReset).ecmd = 0 := rfl
@[simp] theorem State.hardReset_nonceLoop : (s.hardReset).nonceLoop = none := rfl
@[simp] theorem State.hardReset_hostOps : (s.hardReset).hostOps = s.hostOps := rfl
@[simp] theorem State.hardReset_reply : (s.hardReset).reply = .none := rfl
@[simp] theorem State.hardReset_draws : (s.hardReset).draws = s.draws := rfl

/-! ### Register reads after register writes -/

@[simp] theorem State.readX_writeX_same (i : XReg) (v : Word) : (s.writeX i v).readX i = v := by
  simp [State.readX, State.writeX]

theorem State.readX_writeX_ne (i j : XReg) (v : Word) (h : j ≠ i) : (s.writeX i v).readX j = s.readX j := by
  have : i.val ≠ j.val := fun e => h (Fin.ext e.symm)
  simp [State.readX, State.writeX, this]

@[simp] theorem State.readP_writeP_same (i : PReg) (v : Point) : (s.writeP i v).readP i = v := by
  simp [State.readP, State.writeP]

theorem State.readP_writeP_ne (i j : PReg) (v : Point) (h : j ≠ i) : (s.writeP i v).readP j = s.readP j := by
  have : i.val ≠ j.val := fun e => h (Fin.ext e.symm)
  simp [State.readP, State.writeP, this]

@[simp] theorem State.readP_writeX (k : XReg) (v : Word) (i : PReg) : (s.writeX k v).readP i = s.readP i := rfl
@[simp] theorem State.readX_writeP (k : PReg) (v : Point) (i : XReg) : (s.writeP k v).readX i = s.readX i := rfl
@[simp] theorem State.readX_withMsg (bs : Bytes) (h : bs.length ≤ 256) (i : XReg) : (s.withMsg bs h).readX i = s.readX i := rfl
@[simp] theorem State.readP_withMsg (bs : Bytes) (h : bs.length ≤ 256) (i : PReg) : (s.withMsg bs h).readP i = s.readP i := rfl
@[simp] theorem State.readX_complete (i : XReg) : (s.complete).readX i = s.readX i := rfl
@[simp] theorem State.readP_complete (i : PReg) : (s.complete).readP i = s.readP i := rfl
@[simp] theorem State.readX_takeFault (e : ErrCode) (i : XReg) : (s.takeFault e).readX i = s.readX i := rfl
@[simp] theorem State.readP_takeFault (e : ErrCode) (i : PReg) : (s.takeFault e).readP i = s.readP i := rfl
@[simp] theorem State.readX_clearFault (i : XReg) : (s.clearFault).readX i = s.readX i := rfl
@[simp] theorem State.readP_clearFault (i : PReg) : (s.clearFault).readP i = s.readP i := rfl
@[simp] theorem State.readX_issue (w : Word32) (i : XReg) : (s.issue w).readX i = s.readX i := rfl
@[simp] theorem State.readP_issue (w : Word32) (i : PReg) : (s.issue w).readP i = s.readP i := rfl

@[simp] theorem State.readX_reset (i : XReg) : State.reset.readX i = 0 := by
  simp [State.readX, State.reset]

@[simp] theorem State.readP_reset (i : PReg) : State.reset.readP i = .inf := by
  simp [State.readP, State.reset]

end Sys2Proof.Machine
end

