-- ==== Sys2Proof/Laws/Ops.lean ====
section
/-!
SUPPORT. What each shared operation can do, said once (00_scope R19, 30_encoding R70, 60_exceptions R305).
-/

namespace Sys2Proof.Machine

variable (s : State)

theorem finish_eq : finish s = .next s.complete := rfl

theorem finishX_eq (i : XReg) (v : Word) : finishX s i v = .next (s.writeX i v).complete := rfl

theorem finishP_eq (i : PReg) (v : Point) : finishP s i v = .next (s.writeP i v).complete := rfl

theorem raise_eq (e : ErrCode) : raise s e = .next (s.takeFault e) := rfl

@[simp] theorem attempt_ok {α : Type} (a : α) (k : α → Result) : attempt s (.ok a) k = k a := rfl

@[simp] theorem attempt_error {α : Type} (e : ErrCode) (k : α → Result) :
    attempt s (.error e) k = .next (s.takeFault e) := rfl

theorem setMsg_eq {bs : Bytes} (h : bs.length ≤ 256) : setMsg s bs = .next (s.withMsg bs h).complete := by
  rw [setMsg, dif_pos h, finish_eq]

theorem setText_eq (t : Bytes) :
    setText s t = if h : t.length ≤ 256 then .next (s.withMsg t h).complete else .next (s.takeFault .bufBounds) := by
  unfold setText
  split
  · rw [dif_neg (by omega), raise_eq]
  · rw [dif_pos (by omega), setMsg_eq]

theorem withWindow_eq (off : BitVec 8) (len : BitVec 6) (k : Bytes → Result) :
    withWindow s off len k =
      if len.toNat > 32 then .next (s.takeFault .illegalCmd)
      else if off.toNat + len.toNat ≤ 256 then k (Memory.readBytes s.buf off.toNat len.toNat)
      else .next (s.takeFault .bufBounds) := by
  unfold withWindow State.memRead
  split
  · rfl
  · by_cases h : off.toNat + len.toNat ≤ 256 <;> simp [h, raise_eq]

/-- The cases of the candidate loop: the length check, an accepted candidate, a retry. -/
theorem withNonce_cases (d : Word) (accept : Nat → Nat → Result) :
    (s.msg.length ≠ 32 ∧ withNonce s d accept = .next (s.takeFault .badLength)) ∨
    ∃ z l, digestZ s.msg = .ok z ∧ l = s.nonceLoop.getD (nonceSeed d.toNat z) ∧
      (nonceAccepted (nonceCandidate l) = true ∧ withNonce s d accept = accept z (nonceCandidate l) ∨
       nonceAccepted (nonceCandidate l) = false ∧
         withNonce s d accept = .next { s with nonceLoop := some (nonceRetry l) }) := by
  unfold withNonce
  by_cases h : s.msg.length = 32
  · right
    obtain ⟨z, hz⟩ : ∃ z, digestZ s.msg = .ok z := ⟨_, by rw [digestZ, if_neg (by simpa using h)]⟩
    refine ⟨z, _, hz, rfl, ?_⟩
    rw [hz, attempt_ok]
    cases hc : nonceAccepted (nonceCandidate (s.nonceLoop.getD (nonceSeed d.toNat z))) <;> simp [hc]
  · left
    refine ⟨h, ?_⟩
    rw [digestZ, if_pos h, attempt_error]

end Sys2Proof.Machine
end

