-- ==== Sys2Proof/Laws/Frames.lean ====
section
/-!
SUPPORT. What each shared end of a command leaves, in the words of Safety: one lemma per operation, for every
command that ends with it.
-/

namespace Sys2Proof.Machine

variable (s : State)

theorem readX_writeX (i j : XReg) (v : Word) : (s.writeX i v).readX j = if j = i then v else s.readX j := by
  simp only [State.readX, State.writeX, Fin.getElem_fin, Vector.getElem_set]
  by_cases h : j = i
  · simp [h]
  · rw [if_neg h, if_neg (fun e => h (Fin.ext e.symm))]

theorem readP_writeP (i j : PReg) (v : Point) : (s.writeP i v).readP j = if j = i then v else s.readP j := by
  simp only [State.readP, State.writeP, Fin.getElem_fin, Vector.getElem_set]
  by_cases h : j = i
  · simp [h]
  · rw [if_neg h, if_neg (fun e => h (Fin.ext e.symm))]

@[simp] theorem complete_byte (a : Nat) : s.complete.byte a = s.byte a := rfl

/-- A write to `X` and completion. -/
theorem writeX_complete (i : XReg) (v : Word) : s.WritesX (s.writeX i v).complete i v.toNat where
  cmd := rfl
  ie := rfl
  hostOps := rfl
  reply := rfl
  draws := rfl
  busy := rfl
  done := rfl
  nonceLoop := rfl
  err := rfl
  ecmd := rfl
  value := by rw [State.readX_complete, readX_writeX, if_pos rfl]
  x := fun j hj => by rw [State.readX_complete, readX_writeX, if_neg (by simpa using hj)]
  p := fun _ _ => rfl
  bytes := fun _ _ => rfl
  len := rfl

/-- A write to two different X registers and completion. -/
theorem writeTwoX_complete {i j : XReg} (hij : i ≠ j) (v w : Word) :
    s.WritesTwoX ((s.writeX i v).writeX j w).complete i j v.toNat w.toNat where
  cmd := rfl
  ie := rfl
  hostOps := rfl
  reply := rfl
  draws := rfl
  busy := rfl
  done := rfl
  nonceLoop := rfl
  err := rfl
  ecmd := rfl
  value := by rw [State.readX_complete, readX_writeX, if_neg hij, readX_writeX, if_pos rfl]
  value2 := by rw [State.readX_complete, readX_writeX, if_pos rfl]
  x := fun k hk => by
    simp only [List.mem_cons, List.not_mem_nil, or_false, not_or] at hk
    rw [State.readX_complete, readX_writeX, if_neg hk.2, readX_writeX, if_neg hk.1]
  p := fun _ _ => rfl
  bytes := fun _ _ => rfl
  len := rfl

/-- A write to `P` and completion. -/
theorem writeP_complete (i : PReg) (v : Point) : s.WritesP (s.writeP i v).complete i v where
  cmd := rfl
  ie := rfl
  hostOps := rfl
  reply := rfl
  draws := rfl
  busy := rfl
  done := rfl
  nonceLoop := rfl
  err := rfl
  ecmd := rfl
  value := by rw [State.readP_complete, readP_writeP, if_pos rfl]
  x := fun _ _ => rfl
  p := fun j hj => by rw [State.readP_complete, readP_writeP, if_neg (by simpa using hj)]
  bytes := fun _ _ => rfl
  len := rfl

/-- `SetMsg` and completion. -/
theorem withMsg_complete (hw : s.bufCanonical) {bs : Bytes} (h : bs.length ≤ 256) :
    s.WritesMsg (s.withMsg bs h).complete bs where
  cmd := rfl
  ie := rfl
  hostOps := rfl
  reply := rfl
  draws := rfl
  busy := rfl
  done := rfl
  nonceLoop := rfl
  err := rfl
  ecmd := rfl
  len := rfl
  stored := fun i hi => by
    rw [complete_byte]
    show Memory.readByte (Memory.writeBytes s.buf 0 bs) i = _
    rw [Memory.readByte_writeBytes hw (by omega), if_pos (by omega), Nat.sub_zero]
  x := fun _ _ => rfl
  p := fun _ _ => rfl
  bytes := fun a ha => by
    rw [complete_byte]
    show Memory.readByte (Memory.writeBytes s.buf 0 bs) a = _
    rw [Memory.readByte_writeBytes hw (by omega), if_neg ha]
    rfl

/-- The fault entry. -/
theorem takeFault_faulted (e : ErrCode) : s.Faulted (s.takeFault e) e where
  cmd := rfl
  ie := rfl
  hostOps := rfl
  reply := rfl
  draws := rfl
  err := rfl
  ecmd := rfl
  busy := rfl
  done := rfl
  nonceLoop := rfl
  x := fun _ _ => rfl
  p := fun _ _ => rfl
  bytes := fun _ _ => rfl
  len := rfl

theorem complete_completed : s.Completed s.complete where
  cmd := rfl
  ie := rfl
  hostOps := rfl
  reply := rfl
  draws := rfl
  busy := rfl
  done := rfl
  nonceLoop := rfl
  err := rfl
  ecmd := rfl

/-- An encoded text: the message if it fits, else the fault. -/
theorem setText_writes (hw : s.bufCanonical) (t : Bytes) :
    ∃ u, setText s t = .next u ∧ (t.length ≤ 256 → s.WritesMsg u t) ∧ (256 < t.length → s.Faulted u .bufBounds) := by
  rw [setText_eq]
  split
  · rename_i h
    exact ⟨_, rfl, fun _ => withMsg_complete s hw h, fun h' => absurd h' (by omega)⟩
  · exact ⟨_, rfl, fun h' => absurd h' (by omega), fun _ => takeFault_faulted s _⟩

end Sys2Proof.Machine
end

