-- ==== Sys2Proof/Laws/FieldFunctions.lean ====
section
/-!
SUPPORT. What the field functions compute: `powMod` is the power, every result is reduced (41_field R120, R133).
-/

namespace Sys2Proof.Machine

theorem powLoop_eq (m fuel b e acc : Nat) (he : e < 2 ^ fuel) (hacc : acc % m = acc) :
    powLoop m fuel b e acc = acc * b ^ e % m := by
  induction fuel generalizing b e acc with
  | zero =>
    have : e = 0 := by simpa using he
    subst this
    simpa [powLoop] using hacc.symm
  | succ fuel ih =>
    have hhalf : e / 2 < 2 ^ fuel := by rw [Nat.pow_succ] at he; omega
    rw [powLoop, ih _ _ _ hhalf (by split <;> simp [hacc])]
    have hsq : (b * b % m) ^ (e / 2) ≡ b ^ (2 * (e / 2)) [MOD m] := by
      rw [Nat.pow_mul, Nat.pow_two]
      exact (Nat.mod_modEq (b * b) m).pow _
    split
    · have hs : e = 2 * (e / 2) + 1 := by omega
      calc acc * b % m * (b * b % m) ^ (e / 2) % m = acc * b * b ^ (2 * (e / 2)) % m :=
            (Nat.mod_modEq (acc * b) m).mul hsq
        _ = acc * b ^ e % m := by conv_rhs => rw [hs, Nat.pow_succ]
                                  ring_nf
    · have hs : e = 2 * (e / 2) := by omega
      calc acc * (b * b % m) ^ (e / 2) % m = acc * b ^ (2 * (e / 2)) % m :=
            Nat.ModEq.rfl.mul hsq
        _ = acc * b ^ e % m := by rw [← hs]

/-- `powMod` is the power of R128, R129 and R201. -/
theorem powMod_eq (a e m : Nat) : powMod a e m = a ^ e % m := by
  rw [powMod, powLoop_eq _ _ _ _ _ Nat.lt_log2_self (by simp)]
  calc 1 % m * (a % m) ^ e % m = 1 * a ^ e % m :=
        (Nat.mod_modEq 1 m).mul ((Nat.mod_modEq a m).pow e)
    _ = a ^ e % m := by rw [Nat.one_mul]

theorem prime_pos : 0 < Config.prime := by decide

theorem prime_lt : Config.prime < 2 ^ 256 := by decide

namespace Fp

theorem add_lt (a b : Nat) : add a b < Config.prime := Nat.mod_lt _ prime_pos

theorem mul_lt (a b : Nat) : mul a b < Config.prime := Nat.mod_lt _ prime_pos

theorem sub_lt (a b : Nat) : sub a b < Config.prime := add_lt _ _

theorem neg_lt {a : Nat} (h : a < Config.prime) : neg a < Config.prime := by
  unfold neg
  split
  · exact prime_pos
  · omega

theorem div_lt (a b : Nat) : div a b < Config.prime := mul_lt _ _

theorem inv_eq (a : Nat) : inv a = a ^ (Config.prime - 2) % Config.prime := powMod_eq _ _ _

theorem sqrt_eq (a : Nat) : sqrt a = a ^ ((Config.prime + 1) / 4) % Config.prime := powMod_eq _ _ _

theorem pow_eq (a : Nat) (negative : Bool) (m : Nat) :
    pow a negative m = a ^ exponent negative m % Config.prime := powMod_eq _ _ _

end Fp

end Sys2Proof.Machine
end

