-- ==== Sys2Proof/Laws/Primality.lean ====
section
/-!
SUPPORT. `PRIME` and `N` are prime (41_field R132, 44_ecdsa R201), by the factors of `p - 1` and a primitive root.
-/

namespace Sys2Proof.Machine

theorem pow_zmod (p a e : Nat) : (a : ZMod p) ^ e = (powMod a e p : Nat) := by
  rw [powMod_eq, ZMod.natCast_mod, Nat.cast_pow]

/-- Lucas: `a` has order `p - 1` modulo `p`, so `p` is prime. -/
theorem prime_of_factors (p a : Nat) (fs : List Nat)
    (h : fs.prod = p - 1 ∧ 2 < p ∧ powMod a (p - 1) p = 1) (hp : ∀ q ∈ fs, q.Prime)
    (hq : ∀ q ∈ fs, powMod a ((p - 1) / q) p ≠ 1) : p.Prime := by
  obtain ⟨hprod, h2, h1⟩ := h
  have : Fact (1 < p) := ⟨by omega⟩
  refine lucas_primality p (a : ZMod p) (by rw [pow_zmod, h1, Nat.cast_one]) fun q hqp hdvd => ?_
  rw [← hprod] at hdvd
  obtain ⟨r, hr, hqr⟩ := (Prime.dvd_prod_iff hqp.prime).1 hdvd
  have : q = r := (Nat.prime_dvd_prime_iff_eq hqp (hp r hr)).1 hqr
  subst this
  rw [pow_zmod]
  intro e
  have hlt : powMod a ((p - 1) / q) p < p := by rw [powMod_eq]; exact Nat.mod_lt _ (by omega)
  refine hq q hr ?_
  have := congrArg ZMod.val e
  rwa [ZMod.val_natCast, Nat.mod_eq_of_lt hlt, ZMod.val_one] at this

theorem prime_13331831 : Nat.Prime 13331831 := by
  refine prime_of_factors 13331831 13 [2, 5, 971, 1373] (by decide +kernel) ?_ (by decide +kernel)
  simp only [List.forall_mem_cons, List.not_mem_nil, false_imp_iff, implies_true, and_true]
  exact ⟨by norm_num, by norm_num, by norm_num, by norm_num⟩

theorem prime_58_bits_801 : Nat.Prime 173378833005251801 := by
  refine prime_of_factors 173378833005251801 6 [2, 2, 2, 5, 5, 2621, 24809, 13331831] (by decide +kernel) ?_ (by decide +kernel)
  simp only [List.forall_mem_cons, List.not_mem_nil, false_imp_iff, implies_true, and_true]
  exact ⟨by norm_num, by norm_num, by norm_num, by norm_num, by norm_num, by norm_num, by norm_num, prime_13331831⟩

theorem prime_75_bits_353 : Nat.Prime 22149492674086928081353 := by
  refine prime_of_factors 22149492674086928081353 5 [2, 2, 2, 3, 5323, 173378833005251801] (by decide +kernel) ?_ (by decide +kernel)
  simp only [List.forall_mem_cons, List.not_mem_nil, false_imp_iff, implies_true, and_true]
  exact ⟨by norm_num, by norm_num, by norm_num, by norm_num, by norm_num, prime_58_bits_801⟩

theorem prime_77_bits_119 : Nat.Prime 132896956044521568488119 := by
  refine prime_of_factors 132896956044521568488119 6 [2, 3, 22149492674086928081353] (by decide +kernel) ?_ (by decide +kernel)
  simp only [List.forall_mem_cons, List.not_mem_nil, false_imp_iff, implies_true, and_true]
  exact ⟨by norm_num, by norm_num, prime_75_bits_353⟩

theorem prime_1206781 : Nat.Prime 1206781 := by
  refine prime_of_factors 1206781 10 [2, 2, 3, 5, 20113] (by decide +kernel) ?_ (by decide +kernel)
  simp only [List.forall_mem_cons, List.not_mem_nil, false_imp_iff, implies_true, and_true]
  exact ⟨by norm_num, by norm_num, by norm_num, by norm_num, by norm_num⟩

theorem prime_7240687 : Nat.Prime 7240687 := by
  refine prime_of_factors 7240687 3 [2, 3, 1206781] (by decide +kernel) ?_ (by decide +kernel)
  simp only [List.forall_mem_cons, List.not_mem_nil, false_imp_iff, implies_true, and_true]
  exact ⟨by norm_num, by norm_num, prime_1206781⟩

theorem prime_107590001 : Nat.Prime 107590001 := by
  refine prime_of_factors 107590001 3 [2, 2, 2, 2, 5, 5, 5, 5, 7, 29, 53] (by decide +kernel) ?_ (by decide +kernel)
  simp only [List.forall_mem_cons, List.not_mem_nil, false_imp_iff, implies_true, and_true]
  exact ⟨by norm_num, by norm_num, by norm_num, by norm_num, by norm_num, by norm_num, by norm_num, by norm_num, by norm_num, by norm_num, by norm_num⟩

theorem prime_128_bits_977 : Nat.Prime 255515944373312847190720520512484175977 := by
  refine prime_of_factors 255515944373312847190720520512484175977 3 [2, 2, 2, 7, 7, 11, 1627, 2657, 4423, 41201, 96557, 7240687, 107590001] (by decide +kernel) ?_ (by decide +kernel)
  simp only [List.forall_mem_cons, List.not_mem_nil, false_imp_iff, implies_true, and_true]
  exact ⟨by norm_num, by norm_num, by norm_num, by norm_num, by norm_num, by norm_num, by norm_num, by norm_num, by norm_num, by norm_num, by norm_num, prime_7240687, prime_107590001⟩

theorem prime_237_bits_371 : Nat.Prime 205115282021455665897114700593932402728804164701536103180137503955397371 := by
  refine prime_of_factors 205115282021455665897114700593932402728804164701536103180137503955397371 10 [2, 3, 5, 29, 29, 31, 7723, 132896956044521568488119, 255515944373312847190720520512484175977] (by decide +kernel) ?_ (by decide +kernel)
  simp only [List.forall_mem_cons, List.not_mem_nil, false_imp_iff, implies_true, and_true]
  exact ⟨by norm_num, by norm_num, by norm_num, by norm_num, by norm_num, by norm_num, by norm_num, prime_77_bits_119, prime_128_bits_977⟩

theorem prime_prime : Nat.Prime Config.prime := by
  refine prime_of_factors Config.prime 3 [2, 3, 7, 13441, 205115282021455665897114700593932402728804164701536103180137503955397371] (by decide +kernel) ?_ (by decide +kernel)
  simp only [List.forall_mem_cons, List.not_mem_nil, false_imp_iff, implies_true, and_true]
  exact ⟨by norm_num, by norm_num, by norm_num, by norm_num, prime_237_bits_371⟩

theorem prime_4681609 : Nat.Prime 4681609 := by
  refine prime_of_factors 4681609 23 [2, 2, 2, 3, 97, 2011] (by decide +kernel) ?_ (by decide +kernel)
  simp only [List.forall_mem_cons, List.not_mem_nil, false_imp_iff, implies_true, and_true]
  exact ⟨by norm_num, by norm_num, by norm_num, by norm_num, by norm_num, by norm_num⟩

theorem prime_57_bits_537 : Nat.Prime 107361793816595537 := by
  refine prime_of_factors 107361793816595537 3 [2, 2, 2, 2, 16699, 85831, 4681609] (by decide +kernel) ?_ (by decide +kernel)
  simp only [List.forall_mem_cons, List.not_mem_nil, false_imp_iff, implies_true, and_true]
  exact ⟨by norm_num, by norm_num, by norm_num, by norm_num, by norm_num, by norm_num, prime_4681609⟩

theorem prime_120233 : Nat.Prime 120233 := by
  refine prime_of_factors 120233 3 [2, 2, 2, 7, 19, 113] (by decide +kernel) ?_ (by decide +kernel)
  simp only [List.forall_mem_cons, List.not_mem_nil, false_imp_iff, implies_true, and_true]
  exact ⟨by norm_num, by norm_num, by norm_num, by norm_num, by norm_num, by norm_num⟩

theorem prime_44706919 : Nat.Prime 44706919 := by
  refine prime_of_factors 44706919 6 [2, 3, 797, 9349] (by decide +kernel) ?_ (by decide +kernel)
  simp only [List.forall_mem_cons, List.not_mem_nil, false_imp_iff, implies_true, and_true]
  exact ⟨by norm_num, by norm_num, by norm_num, by norm_num⟩

theorem prime_68_bits_449 : Nat.Prime 174723607534414371449 := by
  refine prime_of_factors 174723607534414371449 3 [2, 2, 2, 17, 59, 4051, 120233, 44706919] (by decide +kernel) ?_ (by decide +kernel)
  simp only [List.forall_mem_cons, List.not_mem_nil, false_imp_iff, implies_true, and_true]
  exact ⟨by norm_num, by norm_num, by norm_num, by norm_num, by norm_num, by norm_num, prime_120233, prime_44706919⟩

theorem prime_305873 : Nat.Prime 305873 := by
  refine prime_of_factors 305873 3 [2, 2, 2, 2, 7, 2731] (by decide +kernel) ?_ (by decide +kernel)
  simp only [List.forall_mem_cons, List.not_mem_nil, false_imp_iff, implies_true, and_true]
  exact ⟨by norm_num, by norm_num, by norm_num, by norm_num, by norm_num, by norm_num⟩

theorem prime_545358713 : Nat.Prime 545358713 := by
  refine prime_of_factors 545358713 5 [2, 2, 2, 41, 59, 28181] (by decide +kernel) ?_ (by decide +kernel)
  simp only [List.forall_mem_cons, List.not_mem_nil, false_imp_iff, implies_true, and_true]
  exact ⟨by norm_num, by norm_num, by norm_num, by norm_num, by norm_num, by norm_num⟩

theorem prime_1627771 : Nat.Prime 1627771 := by
  refine prime_of_factors 1627771 3 [2, 3, 5, 29, 1871] (by decide +kernel) ?_ (by decide +kernel)
  simp only [List.forall_mem_cons, List.not_mem_nil, false_imp_iff, implies_true, and_true]
  exact ⟨by norm_num, by norm_num, by norm_num, by norm_num, by norm_num⟩

theorem prime_297159362677 : Nat.Prime 297159362677 := by
  refine prime_of_factors 297159362677 2 [2, 2, 3, 3, 11, 461, 1627771] (by decide +kernel) ?_ (by decide +kernel)
  simp only [List.forall_mem_cons, List.not_mem_nil, false_imp_iff, implies_true, and_true]
  exact ⟨by norm_num, by norm_num, by norm_num, by norm_num, by norm_num, by norm_num, prime_1627771⟩

theorem prime_95_bits_179 : Nat.Prime 29047611873442575647497758179 := by
  refine prime_of_factors 29047611873442575647497758179 2 [2, 293, 305873, 545358713, 297159362677] (by decide +kernel) ?_ (by decide +kernel)
  simp only [List.forall_mem_cons, List.not_mem_nil, false_imp_iff, implies_true, and_true]
  exact ⟨by norm_num, by norm_num, prime_305873, prime_545358713, prime_297159362677⟩

theorem prime_109_bits_189 : Nat.Prime 341948486974166000522343609283189 := by
  refine prime_of_factors 341948486974166000522343609283189 2 [2, 2, 3, 3, 3, 109, 29047611873442575647497758179] (by decide +kernel) ?_ (by decide +kernel)
  simp only [List.forall_mem_cons, List.not_mem_nil, false_imp_iff, implies_true, and_true]
  exact ⟨by norm_num, by norm_num, by norm_num, by norm_num, by norm_num, by norm_num, prime_95_bits_179⟩

theorem order_prime : Nat.Prime Config.order := by
  refine prime_of_factors Config.order 7 [2, 2, 2, 2, 2, 2, 3, 149, 631, 107361793816595537, 174723607534414371449, 341948486974166000522343609283189] (by decide +kernel) ?_ (by decide +kernel)
  simp only [List.forall_mem_cons, List.not_mem_nil, false_imp_iff, implies_true, and_true]
  exact ⟨by norm_num, by norm_num, by norm_num, by norm_num, by norm_num, by norm_num, by norm_num, by norm_num, by norm_num, prime_57_bits_537, prime_68_bits_449, prime_109_bits_189⟩

end Sys2Proof.Machine
end

