-- ==== Sys2Proof/Laws/Curve.lean ====
section
/-!
SUPPORT. The bridge between the point values of the core and the group of the elliptic curve `y² = x³ + 7` over
`ZMod PRIME` (42_curve R150, R156, R158): valid point values are the points of that curve, `padd` is its addition, and
`pmul` its scalar multiplication.
-/

namespace Sys2Proof.Machine

open Sys2Proof.Config (prime)

/-- The field of 41_field, as a type. -/
abbrev Fld := ZMod prime

theorem cast_eq_iff (a b : Nat) : (a : Fld) = b ↔ a % prime = b % prime := ZMod.natCast_eq_natCast_iff' a b prime

theorem cast_prime_sub {a : Nat} (h : a ≤ prime) : ((prime - a : Nat) : Fld) = -(a : Fld) := by
  rw [Nat.cast_sub h, ZMod.natCast_self, zero_sub]

namespace Fp

@[simp] theorem cast_add (a b : Nat) : (add a b : Fld) = a + b := by
  rw [add, ZMod.natCast_mod, Nat.cast_add]

@[simp] theorem cast_mul (a b : Nat) : (mul a b : Fld) = a * b := by
  rw [mul, ZMod.natCast_mod, Nat.cast_mul]

theorem cast_neg {a : Nat} (h : a ≤ prime) : (neg a : Fld) = -(a : Fld) := by
  unfold neg
  split
  · simp_all
  · exact cast_prime_sub h

theorem cast_sub (a : Nat) {b : Nat} (h : b ≤ prime) : (sub a b : Fld) = a - b := by
  rw [sub, cast_add, cast_neg h, sub_eq_add_neg]

variable [Fact prime.Prime]

/-- The Fermat power is the inverse of the field (R126). -/
@[simp] theorem cast_inv (a : Nat) : (inv a : Fld) = (a : Fld)⁻¹ := by
  rw [inv_eq, ZMod.natCast_mod, Nat.cast_pow]
  by_cases h : (a : Fld) = 0
  · rw [h, inv_zero, zero_pow (by decide)]
  · refine eq_inv_of_mul_eq_one_left ?_
    rw [← pow_succ, show prime - 2 + 1 = prime - 1 by decide]
    exact ZMod.pow_card_sub_one_eq_one h

@[simp] theorem cast_div (a b : Nat) : (div a b : Fld) = a / b := by
  rw [div, cast_mul, cast_inv, div_eq_mul_inv]

end Fp

theorem contains_iff (x y : Nat) : contains x y = true ↔ (y : Fld) ^ 2 = (x : Fld) ^ 3 + 7 := by
  have h : contains x y = true ↔
      Fp.mul (y % prime) (y % prime) = Fp.add (Fp.add (Fp.mul (Fp.mul (x % prime) (x % prime)) (x % prime))
        (Fp.mul Config.curveA (x % prime))) Config.curveB := by
    simp [contains]
  have e : ∀ a b : Nat, a < prime → b < prime → (a = b ↔ (a : Fld) = b) := fun a b ha hb => by
    rw [cast_eq_iff, Nat.mod_eq_of_lt ha, Nat.mod_eq_of_lt hb]
  rw [h, e _ _ (Fp.mul_lt _ _) (Fp.add_lt _ _)]
  simp only [Fp.cast_mul, Fp.cast_add, ZMod.natCast_mod, Config.curveA, Config.curveB, Nat.cast_zero, Nat.cast_ofNat,
    zero_mul, add_zero]
  ring_nf

theorem valid_pt_iff (x y : Word) : (Point.pt x y).valid = true ↔
    x.toNat < prime ∧ y.toNat < prime ∧ (y.toNat : Fld) ^ 2 = (x.toNat : Fld) ^ 3 + 7 := by
  simp [Point.valid, contains_iff, and_assoc]

/-- Reduced coordinates are determined by their residues. -/
theorem word_eq_iff {x y : Word} (hx : x.toNat < prime) (hy : y.toNat < prime) :
    (x.toNat : Fld) = y.toNat ↔ x = y := by
  rw [cast_eq_iff, Nat.mod_eq_of_lt hx, Nat.mod_eq_of_lt hy, BitVec.toNat_inj]

theorem toNat_ofNat_of_lt {a : Nat} (h : a < prime) : (BitVec.ofNat 256 a).toNat = a := by
  rw [BitVec.toNat_ofNat, Nat.mod_eq_of_lt (Nat.lt_trans h prime_lt)]

theorem mkPoint_valid_iff {x y : Nat} (hx : x < prime) (hy : y < prime) :
    (mkPoint x y).valid = true ↔ (y : Fld) ^ 2 = (x : Fld) ^ 3 + 7 := by
  rw [mkPoint, valid_pt_iff, toNat_ofNat_of_lt hx, toNat_ofNat_of_lt hy]
  simp [hx, hy]

variable [Fact prime.Prime]

/-- `y² = x³ + 7` (R24, R150). -/
def secp : WeierstrassCurve.Affine Fld := ⟨0, 0, 0, 0, 7⟩

theorem seven_ne : (7 : Fld) ≠ 0 := by
  have : ((7 : Nat) : Fld) ≠ ((0 : Nat) : Fld) := by
    rw [Ne, cast_eq_iff]
    decide
  simpa using this

theorem two_ne : (2 : Fld) ≠ 0 := by
  have : ((2 : Nat) : Fld) ≠ ((0 : Nat) : Fld) := by
    rw [Ne, cast_eq_iff]
    decide
  simpa using this

theorem three_ne : (3 : Fld) ≠ 0 := by
  have : ((3 : Nat) : Fld) ≠ ((0 : Nat) : Fld) := by
    rw [Ne, cast_eq_iff]
    decide
  simpa using this

theorem secp_equation (x y : Fld) : secp.Equation x y ↔ y ^ 2 = x ^ 3 + 7 := by
  rw [WeierstrassCurve.Affine.equation_iff]
  simp [secp]

/-- The curve has no singular point: every solution is a point of the group. -/
theorem secp_nonsingular (x y : Fld) : secp.Nonsingular x y ↔ y ^ 2 = x ^ 3 + 7 := by
  rw [WeierstrassCurve.Affine.nonsingular_iff, secp_equation]
  refine and_iff_left_of_imp fun h => ?_
  by_contra hn
  push Not at hn
  obtain ⟨hx, hy⟩ := hn
  simp only [secp, zero_mul, mul_zero, add_zero, sub_zero] at hx hy
  have hx0 : x = 0 := by
    have := hx.symm
    simpa [three_ne] using this
  have hy0 : y = 0 := by
    have : (2 : Fld) * y = 0 := by linear_combination hy
    simpa [two_ne] using this
  rw [hx0, hy0] at h
  exact seven_ne (by linear_combination -h)

theorem secp_negY (x y : Fld) : secp.negY x y = -y := by
  simp [WeierstrassCurve.Affine.negY, secp]

open Classical in
/-- The point of the curve that a point value stands for. -/
noncomputable def Point.toCurve : Point → secp.Point
  | .inf => 0
  | .pt x y =>
    if h : secp.Nonsingular (x.toNat : Fld) (y.toNat : Fld) then .some _ _ h else 0

theorem toCurve_inf : Point.inf.toCurve = 0 := rfl

theorem valid_nonsingular {x y : Word} (h : (Point.pt x y).valid = true) :
    secp.Nonsingular (x.toNat : Fld) (y.toNat : Fld) :=
  (secp_nonsingular _ _).2 ((valid_pt_iff x y).1 h).2.2

theorem toCurve_pt {x y : Word} (h : (Point.pt x y).valid = true) :
    (Point.pt x y).toCurve = .some _ _ (valid_nonsingular h) := dif_pos _

/-- Valid point values that stand for one point are equal. -/
theorem toCurve_inj {p q : Point} (hp : p.valid = true) (hq : q.valid = true) :
    p.toCurve = q.toCurve ↔ p = q := by
  refine ⟨fun e => ?_, congrArg _⟩
  rcases p with _ | ⟨x1, y1⟩ <;> rcases q with _ | ⟨x2, y2⟩
  · rfl
  · rw [toCurve_inf, toCurve_pt hq] at e
    exact absurd e.symm (WeierstrassCurve.Affine.Point.some_ne_zero _)
  · rw [toCurve_inf, toCurve_pt hp] at e
    exact absurd e (WeierstrassCurve.Affine.Point.some_ne_zero _)
  · rw [toCurve_pt hp, toCurve_pt hq, WeierstrassCurve.Affine.Point.some.injEq] at e
    obtain ⟨hx1, hy1, -⟩ := (valid_pt_iff _ _).1 hp
    obtain ⟨hx2, hy2, -⟩ := (valid_pt_iff _ _).1 hq
    rw [(word_eq_iff hx1 hx2).1 e.1, (word_eq_iff hy1 hy2).1 e.2]

theorem toCurve_eq_zero {p : Point} (hp : p.valid = true) : p.toCurve = 0 ↔ p = .inf :=
  toCurve_inj hp (q := .inf) rfl

theorem toCurve_mkPoint {x y : Nat} (hx : x < prime) (hy : y < prime)
    (h : secp.Nonsingular (x : Fld) (y : Fld)) :
    (mkPoint x y).valid = true ∧ (mkPoint x y).toCurve = .some _ _ h := by
  have hv : (mkPoint x y).valid = true := (mkPoint_valid_iff hx hy).2 ((secp_nonsingular _ _).1 h)
  refine ⟨hv, ?_⟩
  rw [mkPoint, toCurve_pt hv]
  simp only [toNat_ofNat_of_lt hx, toNat_ofNat_of_lt hy]

open Classical in
/-- The sum by the slope `m`, whichever of the last two cases of R156 computes it. -/
theorem slope_sum {x1 y1 x2 y2 : Fld} (h1 : secp.Nonsingular x1 y1) (h2 : secp.Nonsingular x2 y2)
    (hne : ¬ (x1 = x2 ∧ y1 = -y2)) (m x3 y3 : Nat) (hm : (m : Fld) = secp.slope x1 x2 y1 y2)
    (hx3 : x3 < prime) (hy3 : y3 < prime) (ex : (x3 : Fld) = m * m - x1 - x2)
    (ey : (y3 : Fld) = m * (x1 - x3) - y1) :
    (mkPoint x3 y3).valid = true ∧
    (mkPoint x3 y3).toCurve = WeierstrassCurve.Affine.Point.some _ _ h1 + .some _ _ h2 := by
  have hne' : ¬ (x1 = x2 ∧ y1 = secp.negY x2 y2) := by rwa [secp_negY]
  have hX : secp.addX x1 x2 (secp.slope x1 x2 y1 y2) = x3 := by
    rw [ex, ← hm]
    simp only [WeierstrassCurve.Affine.addX, secp]
    ring
  have hY : secp.addY x1 x2 y1 (secp.slope x1 x2 y1 y2) = y3 := by
    rw [WeierstrassCurve.Affine.addY, WeierstrassCurve.Affine.negAddY, hX, secp_negY, ey, ← hm]
    ring
  have hns := WeierstrassCurve.Affine.nonsingular_add h1 h2 hne'
  rw [WeierstrassCurve.Affine.Point.add_some hne']
  simp only [hX, hY] at hns ⊢
  exact toCurve_mkPoint hx3 hy3 hns

open Classical in
/-- `padd` is the addition of the curve's group, and its result is a valid point value (R25, R156). -/
theorem padd_toCurve {p q : Point} (hp : p.valid = true) (hq : q.valid = true) :
    (padd p q).valid = true ∧ (padd p q).toCurve = p.toCurve + q.toCurve := by
  rcases p with _ | ⟨x1, y1⟩
  · exact ⟨hq, by rw [toCurve_inf, zero_add]; rfl⟩
  rcases q with _ | ⟨x2, y2⟩
  · exact ⟨hp, by rw [toCurve_inf, add_zero]; rfl⟩
  obtain ⟨hx1, hy1, he1⟩ := (valid_pt_iff _ _).1 hp
  obtain ⟨hx2, hy2, he2⟩ := (valid_pt_iff _ _).1 hq
  rw [toCurve_pt hp, toCurve_pt hq]
  unfold padd
  by_cases hx : x1 = x2
  · subst hx
    -- one abscissa: opposite, or equal with a vertical or a proper tangent
    have hsq : (y1.toNat : Fld) = y2.toNat ∨ (y1.toNat : Fld) = -y2.toNat := by
      rw [← he1] at he2
      exact sq_eq_sq_iff_eq_or_eq_neg.1 he2.symm
    by_cases hy : y1 = y2
    · subst hy
      by_cases h0 : y1 = 0
      · simp only [h0, ne_eq, not_true_eq_false, and_false, if_false, and_self, if_true]
        refine ⟨rfl, ?_⟩
        rw [toCurve_inf, eq_comm]
        apply WeierstrassCurve.Affine.Point.add_of_Y_eq rfl
        rw [secp_negY]
        simp
      · simp only [h0, ne_eq, not_true_eq_false, and_false, if_false, and_self, if_true]
        have hy0 : (y1.toNat : Fld) ≠ 0 := by
          have := (word_eq_iff hy1 (y := 0) (by decide)).not.2 h0
          simpa using this
        have h2y : (2 : Fld) * y1.toNat ≠ 0 := mul_ne_zero two_ne hy0
        refine slope_sum (valid_nonsingular hp) (valid_nonsingular hp) (fun e => h2y ?_)
          (Fp.div (Fp.add (Fp.mul 3 (Fp.mul x1.toNat x1.toNat)) Config.curveA) (Fp.mul 2 y1.toNat)) _ _ ?_
          (Fp.sub_lt _ _) (Fp.sub_lt _ _) ?_ ?_
        · linear_combination e.2
        · rw [WeierstrassCurve.Affine.slope_of_Y_ne rfl (by
            rw [secp_negY]; intro e; exact h2y (by linear_combination e)), secp_negY]
          simp only [Fp.cast_div, Fp.cast_add, Fp.cast_mul, Config.curveA, secp]
          push_cast
          congr 1 <;> ring
        · rw [Fp.cast_sub _ (Fp.mul_lt _ _).le, Fp.cast_mul, Fp.cast_mul]
          push_cast
          ring
        · rw [Fp.cast_sub _ hy1.le, Fp.cast_mul, Fp.cast_sub _ (Fp.sub_lt _ _).le]
    · simp only [hy, ne_eq, not_false_eq_true, and_self, if_true]
      refine ⟨rfl, ?_⟩
      rw [toCurve_inf, eq_comm]
      apply WeierstrassCurve.Affine.Point.add_of_Y_eq rfl
      rw [secp_negY]
      exact hsq.resolve_left fun e => hy ((word_eq_iff hy1 hy2).1 e)
  · simp only [hx, ne_eq, false_and, if_false]
    have hxf : (x1.toNat : Fld) ≠ x2.toNat := (word_eq_iff hx1 hx2).not.2 hx
    refine slope_sum (valid_nonsingular hp) (valid_nonsingular hq) (fun e => hxf e.1)
      (Fp.div (Fp.sub y2.toNat y1.toNat) (Fp.sub x2.toNat x1.toNat)) _ _ ?_
      (Fp.sub_lt _ _) (Fp.sub_lt _ _) ?_ ?_
    · rw [WeierstrassCurve.Affine.slope_of_X_ne hxf, Fp.cast_div, Fp.cast_sub _ hy1.le, Fp.cast_sub _ hx1.le,
        ← neg_sub, ← neg_sub (x1.toNat : Fld), neg_div_neg_eq]
    · rw [Fp.cast_sub _ hx2.le, Fp.cast_sub _ hx1.le, Fp.cast_mul]
    · rw [Fp.cast_sub _ hy1.le, Fp.cast_mul, Fp.cast_sub _ (Fp.sub_lt _ _).le]

theorem padd_valid {p q : Point} (hp : p.valid = true) (hq : q.valid = true) : (padd p q).valid = true :=
  (padd_toCurve hp hq).1

open Classical in
/-- The double-and-add loop adds `k` times the current point to the result (R158). -/
theorem pmulLoop_toCurve (fuel k : Nat) {p r : Point} (hk : k < 2 ^ fuel) (hp : p.valid = true)
    (hr : r.valid = true) :
    (pmulLoop fuel k p r).valid = true ∧ (pmulLoop fuel k p r).toCurve = r.toCurve + k • p.toCurve := by
  induction fuel generalizing k p r with
  | zero =>
    have : k = 0 := by simpa using hk
    subst this
    exact ⟨hr, by simp [pmulLoop]⟩
  | succ fuel ih =>
    rw [pmulLoop]
    by_cases h0 : k = 0
    · rw [if_pos h0, h0, zero_nsmul, add_zero]
      exact ⟨hr, rfl⟩
    · rw [if_neg h0]
      have hk2 : k / 2 < 2 ^ fuel := by rw [Nat.pow_succ] at hk; omega
      obtain ⟨hpv, hpc⟩ := padd_toCurve hp hp
      have hd : k • p.toCurve = (k % 2) • p.toCurve + (k / 2) • (p.toCurve + p.toCurve) := by
        rw [← two_nsmul, ← mul_smul, ← add_smul, Nat.mul_comm, Nat.mod_add_div]
      by_cases h1 : k % 2 = 1
      · obtain ⟨hrv, hrc⟩ := padd_toCurve hr hp
        rw [if_pos h1]
        obtain ⟨hv, hc⟩ := ih _ hk2 hpv hrv
        exact ⟨hv, by rw [hc, hrc, hpc, hd, h1, one_smul, add_assoc]⟩
      · rw [if_neg h1]
        obtain ⟨hv, hc⟩ := ih _ hk2 hpv hr
        exact ⟨hv, by rw [hc, hpc, hd, show k % 2 = 0 by omega, zero_nsmul, zero_add]⟩

open Classical in
/-- `pmul` is the scalar multiplication of the group by `k mod N` (R158). -/
theorem pmul_toCurve (k : Nat) {p : Point} (hp : p.valid = true) :
    (pmul k p).valid = true ∧ (pmul k p).toCurve = (k % Config.order) • p.toCurve := by
  have hlt : k % Config.order < 2 ^ 256 :=
    Nat.lt_trans (Nat.mod_lt _ (by decide)) (by decide)
  obtain ⟨hv, hc⟩ := pmulLoop_toCurve 256 _ hlt hp (r := .inf) rfl
  exact ⟨hv, by rw [pmul, hc, toCurve_inf, zero_add]⟩

theorem pmul_valid (k : Nat) {p : Point} (hp : p.valid = true) : (pmul k p).valid = true := (pmul_toCurve k hp).1

omit [Fact prime.Prime] in
theorem basePoint_valid : basePoint.valid = true := by decide +kernel

end Sys2Proof.Machine
end

