-- ==== Sys2Proof/Laws/Multiples.lean ====
section
/-!
SUPPORT. Opposite points and repeated addition in the group of the curve (42_curve R157, R158).
-/

namespace Sys2Proof.Machine

open Sys2Proof.Config (prime)

variable [Fact prime.Prime]

/-- `-P` is the opposite of the group. -/
theorem opposite_toCurve {p : Point} (hp : p.valid = true) :
    p.opposite.valid = true ∧ p.opposite.toCurve = -p.toCurve := by
  rcases p with _ | ⟨x, y⟩
  · exact ⟨rfl, by rw [Point.opposite, toCurve_inf, neg_zero]⟩
  · obtain ⟨hx, hy, he⟩ := (valid_pt_iff _ _).1 hp
    have hlt : (prime - y.toNat) % prime < prime := Nat.mod_lt _ prime_pos
    have hc : (((prime - y.toNat) % prime : Nat) : Fld) = -(y.toNat : Fld) := by
      rw [ZMod.natCast_mod, cast_prime_sub hy.le]
    have hv : (Point.pt x (BitVec.ofNat 256 ((prime - y.toNat) % prime))).valid = true := by
      rw [valid_pt_iff, toNat_ofNat_of_lt hlt, hc]
      exact ⟨hx, hlt, by rw [neg_sq, he]⟩
    refine ⟨hv, ?_⟩
    rw [Point.opposite, toCurve_pt hv, toCurve_pt hp, WeierstrassCurve.Affine.Point.neg_some]
    simp only [toNat_ofNat_of_lt hlt, hc, secp_negY]

open Classical in
/-- The sum of `k` copies of a point is `k` times it. -/
theorem multiple_toCurve (k : Nat) {p : Point} (hp : p.valid = true) :
    (multiple k p).valid = true ∧ (multiple k p).toCurve = k • p.toCurve := by
  induction k with
  | zero => exact ⟨rfl, by rw [multiple, Function.iterate_zero, id, toCurve_inf, zero_nsmul]⟩
  | succ k ih =>
    obtain ⟨hv, hc⟩ := padd_toCurve ih.1 hp
    rw [multiple, Function.iterate_succ_apply', ← multiple]
    exact ⟨hv, by rw [hc, ih.2, succ_nsmul]⟩

end Sys2Proof.Machine
end

