-- ==== Sys2Proof/Laws/Exec.lean ====
section
/-!
SUPPORT. Everything a command can do, said once for all 47 (30_encoding R70, 60_exceptions R303): `exec_ends`.
-/

namespace Sys2Proof.Machine

/-- A fault that the command `i` may raise: one of its own, or the illegal-command fault of a term that is no legal
command. -/
def mayRaise (i : Instr) (e : ErrCode) : Prop := e ∈ errorsOf i ∨ (i.wellFormed = false ∧ e = .illegalCmd)

/-- How a command can end. -/
inductive Ends (i : Instr) (s : State) : Result → Prop
  | nothing : Ends i s (.next s.complete)
  | x (d : XReg) (v : Word) : Ends i s (.next (s.writeX d v).complete)
  | twoX (d d2 : XReg) (v v2 : Word) (h : d ≠ d2) : Ends i s (.next ((s.writeX d v).writeX d2 v2).complete)
  | p (d : PReg) (q : Point) (hi : writesPoint i = true) (hq : s.pointsValid → q.valid = true) :
      Ends i s (.next (s.writeP d q).complete)
  | len (n : Fin 257) : Ends i s (.next ({ s with len := n } : State).complete)
  | bytes (k : Nat) (bs : Bytes) (h : k + bs.length ≤ 256) :
      Ends i s (.next ({ s with buf := Memory.writeBytes s.buf k bs } : State).complete)
  | msg (bs : Bytes) (h : bs.length ≤ 256) : Ends i s (.next (s.withMsg bs h).complete)
  | fault (e : ErrCode) (h : mayRaise i e) : Ends i s (.next (s.takeFault e))
  | loop (l : NonceLoop) (hi : loops i = true) (hk : l.k.length = 32) (hv : l.v.length = 32) :
      Ends i s (.next { s with nonceLoop := some l })

theorem ends_setMsg (i : Instr) (s : State) {bs : Bytes} (h : bs.length ≤ 256) : Ends i s (setMsg s bs) := by
  rw [setMsg_eq s h]
  exact .msg _ _

theorem ends_setText (i : Instr) (s : State) (bs : Bytes) (h : mayRaise i .bufBounds) : Ends i s (setText s bs) := by
  rw [setText_eq]
  split
  · exact .msg _ _
  · exact .fault _ h

theorem ends_withNonce (i : Instr) (s : State) (d : Word) (accept : Nat → Nat → Result) (hi : loops i = true)
    (he : mayRaise i .badLength) (h : ∀ z k, Ends i s (accept z k)) : Ends i s (withNonce s d accept) := by
  rcases withNonce_cases s d accept with ⟨-, e⟩ | ⟨z, l, -, -, ⟨-, e⟩ | ⟨-, e⟩⟩ <;> rw [e]
  · exact .fault _ he
  · exact h _ _
  · exact .loop _ hi (nonceRetry_length l).1 (nonceRetry_length l).2

theorem ends_withWindow (i : Instr) (s : State) (off : BitVec 8) (len : BitVec 6) (k : Bytes → Result)
    (h32 : 32 < len.toNat → mayRaise i .illegalCmd) (he : mayRaise i .bufBounds) (h : ∀ b, Ends i s (k b)) :
    Ends i s (withWindow s off len k) := by
  rw [withWindow_eq]
  split
  · exact .fault _ (h32 ‹_›)
  · split
    · exact h _
    · exact .fault _ he

theorem sec_error {q : Point} {c : Bool} {e : ErrCode} (h : sec q c = .error e) : q = .inf ∧ e = .serIdentity := by
  cases q <;> cases h
  exact ⟨rfl, rfl⟩

theorem secdec_error {m : Bytes} {e : ErrCode} (h : secdec m = .error e) :
    e = .badLength ∨ e = .secTag ∨ e = .notOnCurve := by
  unfold secdec secdecCompressed secdecUncompressed at h
  dsimp only at h
  split at h
  · split at h
    · cases h; simp
    · split at h <;> cases h
      simp
  · split at h
    · split at h
      · cases h; simp
      · split at h <;> split at h <;> cases h <;> simp
    · cases h; simp

/-- A decoded point is on the curve (R183). -/
theorem secdec_valid {m : Bytes} {q : Point} (h : secdec m = .ok q) : q.valid = true := by
  have hm : ∀ a, a % Config.prime < Config.prime := fun a => Nat.mod_lt _ prime_pos
  have key : ∀ x y, x < Config.prime → y < Config.prime → contains x y = true → (mkPoint x y).valid = true :=
    fun x y hx hy hc => (mkPoint_valid_iff hx hy).2 ((contains_iff x y).1 hc)
  have hs : ∀ a, Fp.sqrt a < Config.prime := fun a => by rw [Fp.sqrt_eq]; exact hm _
  unfold secdec secdecCompressed secdecUncompressed at h
  dsimp only at h
  split at h
  · split at h
    · cases h
    · split at h <;> cases h
      exact key _ _ (hm _) (hm _) ‹_›
  · split at h
    · split at h
      · cases h
      · split at h <;> split at h <;> cases h
        · exact key _ _ (hm _) (hs _) ‹_›
        · exact key _ _ (hm _) (hm _) ‹_›
    · cases h

theorem b58dec_error {m : Bytes} {e : ErrCode} (h : Base58.decode m = .error e) : e = .b58Char := by
  unfold Base58.decode at h
  split at h <;> cases h
  rfl

theorem b58uncheck_error {m : Bytes} {e : ErrCode} (h : Base58.checkDecode m = .error e) :
    e = .b58Char ∨ e = .badLength ∨ e = .b58Checksum := by
  unfold Base58.checkDecode at h
  split at h
  · cases h
    exact .inl (b58dec_error ‹_›)
  · split at h
    · cases h; simp
    · split at h <;> cases h
      simp

namespace Der

theorem read_error {n : Nat} {rest : Bytes} {e : ErrCode} (h : read n rest = .error e) : e = .derLength := by
  unfold read at h
  split at h <;> cases h
  rfl

theorem readByte_error {rest : Bytes} {e : ErrCode} (h : readByte rest = .error e) : e = .derLength := by
  unfold readByte at h
  split at h <;> cases h
  rfl

theorem bind_error {α β : Type} {r : Except ErrCode α} {k : α → Except ErrCode β} {e : ErrCode}
    (h : (r >>= k) = .error e) : r = .error e ∨ ∃ a, r = .ok a ∧ k a = .error e := by
  cases r with
  | error e' =>
    cases h
    exact .inl rfl
  | ok a => exact .inr ⟨a, rfl, h⟩

theorem bind_ok {α β : Type} {r : Except ErrCode α} {k : α → Except ErrCode β} {b : β}
    (h : (r >>= k) = .ok b) : ∃ a, r = .ok a ∧ k a = .ok b := by
  cases r with
  | error e' => cases h
  | ok a => exact ⟨a, rfl, h⟩

theorem component_error {rest : Bytes} {e : ErrCode} (h : component rest = .error e) :
    e = .derMarker ∨ e = .derLength := by
  rcases bind_error h with h | ⟨⟨m, rest⟩, -, h⟩
  · exact .inr (readByte_error h)
  · dsimp only at h
    split at h
    · cases h; simp
    · rcases bind_error h with h | ⟨⟨n, rest⟩, -, h⟩
      · exact .inr (readByte_error h)
      · exact .inr (read_error h)

theorem decode_error {m : Bytes} {e : ErrCode} (h : decode m = .error e) :
    e = .derCompound ∨ e = .derLength ∨ e = .derMarker ∨ e = .encOverflow := by
  rcases bind_error h with h | ⟨⟨t, rest⟩, -, h⟩
  · simp [readByte_error h]
  · dsimp only at h
    split at h
    · cases h; simp
    · rcases bind_error h with h | ⟨⟨l, rest⟩, -, h⟩
      · simp [readByte_error h]
      · dsimp only at h
        split at h
        · cases h; simp
        · rcases bind_error h with h | ⟨⟨rb, rest⟩, -, h⟩
          · rcases component_error h with rfl | rfl <;> simp
          · rcases bind_error h with h | ⟨⟨sb, rest⟩, -, h⟩
            · rcases component_error h with rfl | rfl <;> simp
            · dsimp only at h
              split at h
              · cases h; simp
              · split at h <;> cases h
                simp

end Der

variable [Fact Sys2Proof.Config.prime.Prime]

/-- EVERY COMMAND IN EVERY STATE: how it ends. -/
theorem exec_ends (i : Instr) (s : State) : Ends i s (exec i s) := by
  have own : ∀ {e}, e ∈ errorsOf i → mayRaise i e := .inl
  have bad : i.wellFormed = false → mayRaise i .illegalCmd := fun h => .inr ⟨h, rfl⟩
  cases i <;> dsimp only [exec]
  case nop => exact .nothing
  case ldc rd imm16 =>
    unfold execLdc
    split
    · exact .x _ _
    · rename_i h
      refine .fault _ (bad ?_)
      by_contra hn
      have hle : imm16.toNat ≤ 5 := by simpa [Instr.wellFormed] using hn
      revert h
      generalize imm16.toNat = n at hle
      interval_cases n <;> simp [constant]
  case setlen =>
    unfold execSetlen
    split
    · exact .len _
    · rename_i h
      exact .fault _ (bad (by simpa [Instr.wellFormed] using Nat.lt_of_not_le h))
  case ldbe => exact ends_withWindow _ _ _ _ _ (fun h => bad (by simpa [Instr.wellFormed] using h)) (own (by simp [errorsOf])) fun b => .x _ _
  case ldle => exact ends_withWindow _ _ _ _ _ (fun h => bad (by simpa [Instr.wellFormed] using h)) (own (by simp [errorsOf])) fun b => .x _ _
  case stbe rd off len =>
    unfold execStbe State.memWrite
    split
    · exact .fault _ (bad (by simpa [Instr.wellFormed] using ‹_›))
    · by_cases h : off.toNat + (bytesBE (s.xNat rd) len.toNat).length ≤ 256
      · rw [if_pos h]
        dsimp only
        split
        · exact .fault _ (own (by simp [errorsOf]))
        · exact .bytes _ _ h
      · rw [if_neg h]
        exact .fault _ (own (by simp [errorsOf]))
  case finv => unfold execFinv; split; exact .fault _ (own (by simp [errorsOf])); exact .x _ _
  case fdiv => unfold execFdiv; split; exact .fault _ (own (by simp [errorsOf])); exact .x _ _
  case pnew rd rs1 rs2 =>
    unfold execPnew
    split
    · rename_i h
      exact .p _ _ rfl fun _ => (mkPoint_valid_iff (Nat.mod_lt _ prime_pos) (Nat.mod_lt _ prime_pos)).2
        ((contains_iff _ _).1 h)
    · exact .fault _ (own (by simp [errorsOf]))
  case pinf => exact .p _ _ rfl fun _ => rfl
  case pldg => exact .p _ _ rfl fun _ => basePoint_valid
  case pmov => exact .p _ _ rfl fun h => h _
  case padd => exact .p _ _ rfl fun h => padd_valid (h _) (h _)
  case pmul => exact .p _ _ rfl fun h => pmul_valid _ (h _)
  case pgetx => unfold execPgetx; split; exact .fault _ (own (by simp [errorsOf])); exact .x _ _
  case pgety => unfold execPgety; split; exact .fault _ (own (by simp [errorsOf])); exact .x _ _
  case keygen => exact .p _ _ rfl fun _ => pmul_valid _ basePoint_valid
  case secenc rs1 c =>
    unfold execSecenc
    cases h : sec (s.readP rs1) c with
    | error e => cases (sec_error h).2; exact .fault _ (own (by simp [errorsOf]))
    | ok bs => exact ends_setMsg _ _ (by rw [sec_length h]; split <;> omega)
  case secdec =>
    unfold execSecdec
    cases h : secdec s.msg with
    | error e => rcases secdec_error h with rfl | rfl | rfl <;> exact .fault _ (own (by simp [errorsOf]))
    | ok q => exact .p _ _ rfl fun _ => secdec_valid h
  case addr rs1 c t =>
    unfold execAddr
    cases h : sec (s.readP rs1) c with
    | error e => cases (sec_error h).2; exact .fault _ (own (by simp [errorsOf]))
    | ok bs => exact ends_setMsg _ _ (Nat.le_trans (addressText_length_le _ _) (by decide))
  case wif => exact ends_setMsg _ _ (Nat.le_trans (wifText_length_le _ _ _) (by decide))
  case nonce => exact ends_withNonce _ _ _ _ rfl (own (by simp [errorsOf])) fun _ _ => .x _ _
  case sign rd rs3 rs1 =>
    unfold execSign
    split
    · exact .fault _ (bad (by simpa [Instr.wellFormed] using ‹_›))
    · exact ends_withNonce _ _ _ _ rfl (own (by simp [errorsOf])) fun _ _ => .twoX _ _ _ _ ‹_›
  case verify =>
    unfold execVerify verify
    split
    · exact .fault _ (own (by simp [errorsOf]))
    · exact .x _ _
  case derenc => exact ends_setMsg _ _ (Nat.le_trans (Der.encode_length_le _ _) (by decide))
  case derdec rd rs3 =>
    unfold execDerdec
    split
    · exact .fault _ (bad (by simpa [Instr.wellFormed] using ‹_›))
    · cases h : Der.decode s.msg with
      | error e => rcases Der.decode_error h with rfl | rfl | rfl | rfl <;> exact .fault _ (own (by simp [errorsOf]))
      | ok q => exact .twoX _ _ _ _ ‹_›
  case b58enc => exact ends_setText _ _ _ (own (by simp [errorsOf]))
  case b58cenc => exact ends_setText _ _ _ (own (by simp [errorsOf]))
  case b58dec =>
    unfold execB58dec
    cases h : Base58.decode s.msg with
    | error e => cases b58dec_error h; exact .fault _ (own (by simp [errorsOf]))
    | ok d =>
      have := Base58.decode_length_le h
      rw [State.msg_length] at this
      exact ends_setMsg _ _ (by have := s.len.isLt; omega)
  case b58cdec =>
    unfold execB58cdec
    cases h : Base58.checkDecode s.msg with
    | error e => rcases b58uncheck_error h with rfl | rfl | rfl <;> exact .fault _ (own (by simp [errorsOf]))
    | ok d =>
      have := Base58.checkDecode_length_le h
      rw [State.msg_length] at this
      exact ends_setMsg _ _ (by have := s.len.isLt; omega)
  case h256 => exact ends_setMsg _ _ (by simp)
  case h160 => exact ends_setMsg _ _ (by simp)
  all_goals exact .x _ _

end Sys2Proof.Machine
end

