-- ==== Sys2Proof/Laws/Bus.lean ====
section
/-!
SUPPORT. Everything a host access can do to the state (20_memory R52, R57, R61), and everything a step can do.
-/

namespace Sys2Proof.Machine

/-- The state a host write leaves, but for `reply`. -/
inductive Written (s : State) : State → Prop
  | same : Written s s
  | issue (w : Word32) (hb : s.busy = false) (he : s.err = 0) : Written s (s.issue w)
  | clearDone : Written s { s with done := false }
  | ctrl (ie : Bool) (hb : s.busy = false) : Written s { s with ie := ie }
  | clearFault (ie : Bool) (hb : s.busy = false) : Written s { s with ie := ie, err := 0 }
  | len (n : Fin 257) : Written s { s with len := n }
  | x (i : XReg) (v : Word) : Written s (s.writeX i v)
  | bytes (k : Nat) (bs : Bytes) (h : k + bs.length ≤ 256) :
      Written s { s with buf := Memory.writeBytes s.buf k bs }

theorem windowWrite_written (s : State) (off : Nat) (w : Word32) (h4 : off % 4 = 0) (hb : s.busy = false) :
    Written s (s.windowWrite off w) := by
  unfold State.windowWrite
  split
  · unfold State.writeCmd
    split
    · exact .issue w hb ‹_›
    · exact .same
  split
  · unfold State.writeStatus
    split
    · exact .clearDone
    · exact .same
  split
  · unfold State.writeCtrl
    dsimp only
    split
    · exact .clearFault _ hb
    · exact .ctrl _ hb
  split
  · unfold State.writeLen
    split
    · exact .len _
    · exact .same
  split
  · exact .x _ _
  split
  · refine .bytes _ _ ?_
    simp only [bytesLE_length]
    omega
  · exact .same

/-- What a host write leaves: a state of `Written` with a reply. -/
theorem hostWrite_written (s : State) (off width : Nat) (w : Word32) :
    ∃ t r, s.hostWrite off width w = { t with reply := r } ∧ Written s t := by
  unfold State.hostWrite
  split
  · exact ⟨s, _, rfl, .same⟩
  · rename_i ha
    split
    · exact ⟨s, _, rfl, .same⟩
    · rename_i hb
      refine ⟨s.windowWrite off w, _, rfl, windowWrite_written s off w ?_ (by simpa using hb)⟩
      simp only [busAligned, Bool.not_eq_true', Bool.and_eq_false_iff, decide_eq_false_iff_not, not_or, not_not] at ha
      exact ha.1.2

/-- A host read changes the reply and the count of draws alone (R59, R61). -/
theorem hostRead_eq (s : State) (off width : Nat) :
    ∃ r n, s.hostRead off width = { s with reply := r, draws := n } := by
  unfold State.hostRead
  split
  · exact ⟨_, s.draws, rfl⟩
  · split
    · exact ⟨_, _, rfl⟩
    · exact ⟨_, s.draws, rfl⟩

/-- What the core's move can be: the end of a command, the illegal-command fault, or nothing. -/
theorem coreStep_cases [Fact Sys2Proof.Config.prime.Prime] (s : State) :
    (s.busy = true ∧ ∃ i, decode s.cmd = .ok i ∧ coreStep s = exec i s ∧ Ends i s (coreStep s)) ∨
    (s.busy = true ∧ coreStep s = .next (s.takeFault .illegalCmd)) ∨
    (s.busy = false ∧ coreStep s = .next s) := by
  unfold coreStep
  cases hb : s.busy
  · exact .inr (.inr ⟨rfl, rfl⟩)
  · rw [if_pos rfl, State.fetch]
    cases hd : decode s.cmd with
    | ok i => exact .inl ⟨rfl, i, rfl, rfl, exec_ends i s⟩
    | error e => exact .inr (.inl ⟨rfl, rfl⟩)

/-- What a step can be: a move of the core, a host read, a host write, or reset. -/
theorem step_cases (s : State) :
    (∃ ops, step s = coreStep { s with hostOps := ops }) ∨
    (∃ ops r n, step s = .next { s with hostOps := ops, reply := r, draws := n }) ∨
    (∃ ops t r, step s = .next { t with reply := r } ∧ Written { s with hostOps := ops } t) ∨
    (∃ ops, step s = .next ({ s with hostOps := ops } : State).hardReset) := by
  unfold step
  split
  · rename_i h
    exact .inl ⟨[], by rw [← h]⟩
  · exact .inl ⟨_, rfl⟩
  · rename_i off width rest _
    obtain ⟨r, n, e⟩ := hostRead_eq { s with hostOps := rest } off width
    exact .inr (.inl ⟨rest, r, n, by rw [e]⟩)
  · rename_i off width w rest _
    obtain ⟨t, r, e, h⟩ := hostWrite_written { s with hostOps := rest } off width w
    exact .inr (.inr (.inl ⟨rest, t, r, by rw [e], h⟩))
  · exact .inr (.inr (.inr ⟨_, rfl⟩))

end Sys2Proof.Machine
end

