-- ==== Sys2Proof/Laws/PerInstr.lean ====
section
/-!
SUPPORT. For every command: the low byte of its word is the opcode that the table of 30_encoding R76 gives it.
-/

namespace Sys2Proof.Laws.Opcode

/-- The opcode of R76. -/
def number : Instr → Nat
  | .nop => 0x00
  | .li _ _ => 0x01
  | .ldc _ _ => 0x02
  | .mov _ _ => 0x03
  | .setlen _ => 0x04
  | .getlen _ => 0x05
  | .ldbe _ _ _ => 0x06
  | .ldle _ _ _ => 0x07
  | .stbe _ _ _ => 0x08
  | .fred _ _ => 0x10
  | .fadd _ _ _ => 0x11
  | .fsub _ _ _ => 0x12
  | .fneg _ _ => 0x13
  | .fmul _ _ _ => 0x14
  | .finv _ _ => 0x15
  | .fdiv _ _ _ => 0x16
  | .fpow _ _ _ _ => 0x17
  | .fsqrt _ _ => 0x18
  | .fisz _ _ => 0x19
  | .feq _ _ _ => 0x1A
  | .pcont _ _ _ => 0x20
  | .pnew _ _ _ => 0x21
  | .pinf _ => 0x22
  | .pldg _ => 0x23
  | .pmov _ _ => 0x24
  | .padd _ _ _ => 0x25
  | .pmul _ _ _ => 0x26
  | .peq _ _ _ => 0x27
  | .pisinf _ _ => 0x28
  | .pgetx _ _ => 0x29
  | .pgety _ _ => 0x2A
  | .keygen _ _ => 0x30
  | .secenc _ _ => 0x31
  | .secdec _ => 0x32
  | .addr _ _ _ => 0x33
  | .wif _ _ _ => 0x34
  | .nonce _ _ => 0x40
  | .sign _ _ _ => 0x41
  | .verify _ _ _ _ => 0x42
  | .derenc _ _ => 0x43
  | .derdec _ _ => 0x44
  | .b58enc => 0x50
  | .b58dec => 0x51
  | .b58cenc => 0x52
  | .b58cdec => 0x53
  | .h256 => 0x60
  | .h160 => 0x61

/-- "In every format bits 7:0 are `opcode`" (R71). -/
def Statement (i : Instr) : Prop := bits (encode i) 7 0 = number i

theorem formatR_opcode (opcode rd rs1 rs2 rs3 fl : Nat) (h : opcode < 256) :
    bits (formatR opcode rd rs1 rs2 rs3 fl) 7 0 = opcode := by
  simp only [bits, formatR, BitVec.toNat_ofNat]
  omega

theorem formatI_opcode (opcode rd imm16 : Nat) (h : opcode < 256) :
    bits (formatI opcode rd imm16) 7 0 = opcode := by
  simp only [bits, formatI, BitVec.toNat_ofNat]
  omega

theorem formatM_opcode (opcode rd len off : Nat) (h : opcode < 256) :
    bits (formatM opcode rd len off) 7 0 = opcode := by
  simp only [bits, formatM, BitVec.toNat_ofNat]
  omega

theorem nop : Statement (.nop) := formatR_opcode _ _ _ _ _ _ (by decide)
theorem li (rd : XReg) (imm16 : BitVec 16) : Statement (.li rd imm16) := formatI_opcode _ _ _ (by decide)
theorem ldc (rd : XReg) (imm16 : BitVec 16) : Statement (.ldc rd imm16) := formatI_opcode _ _ _ (by decide)
theorem mov (rd : XReg) (rs1 : XReg) : Statement (.mov rd rs1) := formatR_opcode _ _ _ _ _ _ (by decide)
theorem setlen (imm16 : BitVec 16) : Statement (.setlen imm16) := formatI_opcode _ _ _ (by decide)
theorem getlen (rd : XReg) : Statement (.getlen rd) := formatR_opcode _ _ _ _ _ _ (by decide)
theorem ldbe (rd : XReg) (off : BitVec 8) (len : BitVec 6) : Statement (.ldbe rd off len) := formatM_opcode _ _ _ _ (by decide)
theorem ldle (rd : XReg) (off : BitVec 8) (len : BitVec 6) : Statement (.ldle rd off len) := formatM_opcode _ _ _ _ (by decide)
theorem stbe (rd : XReg) (off : BitVec 8) (len : BitVec 6) : Statement (.stbe rd off len) := formatM_opcode _ _ _ _ (by decide)
theorem fred (rd : XReg) (rs1 : XReg) : Statement (.fred rd rs1) := formatR_opcode _ _ _ _ _ _ (by decide)
theorem fadd (rd : XReg) (rs1 : XReg) (rs2 : XReg) : Statement (.fadd rd rs1 rs2) := formatR_opcode _ _ _ _ _ _ (by decide)
theorem fsub (rd : XReg) (rs1 : XReg) (rs2 : XReg) : Statement (.fsub rd rs1 rs2) := formatR_opcode _ _ _ _ _ _ (by decide)
theorem fneg (rd : XReg) (rs1 : XReg) : Statement (.fneg rd rs1) := formatR_opcode _ _ _ _ _ _ (by decide)
theorem fmul (rd : XReg) (rs1 : XReg) (rs2 : XReg) : Statement (.fmul rd rs1 rs2) := formatR_opcode _ _ _ _ _ _ (by decide)
theorem finv (rd : XReg) (rs1 : XReg) : Statement (.finv rd rs1) := formatR_opcode _ _ _ _ _ _ (by decide)
theorem fdiv (rd : XReg) (rs1 : XReg) (rs2 : XReg) : Statement (.fdiv rd rs1 rs2) := formatR_opcode _ _ _ _ _ _ (by decide)
theorem fpow (rd : XReg) (rs1 : XReg) (rs2 : XReg) (neg : Bool) : Statement (.fpow rd rs1 rs2 neg) := formatR_opcode _ _ _ _ _ _ (by decide)
theorem fsqrt (rd : XReg) (rs1 : XReg) : Statement (.fsqrt rd rs1) := formatR_opcode _ _ _ _ _ _ (by decide)
theorem fisz (rd : XReg) (rs1 : XReg) : Statement (.fisz rd rs1) := formatR_opcode _ _ _ _ _ _ (by decide)
theorem feq (rd : XReg) (rs1 : XReg) (rs2 : XReg) : Statement (.feq rd rs1 rs2) := formatR_opcode _ _ _ _ _ _ (by decide)
theorem pcont (rd : XReg) (rs1 : XReg) (rs2 : XReg) : Statement (.pcont rd rs1 rs2) := formatR_opcode _ _ _ _ _ _ (by decide)
theorem pnew (rd : PReg) (rs1 : XReg) (rs2 : XReg) : Statement (.pnew rd rs1 rs2) := formatR_opcode _ _ _ _ _ _ (by decide)
theorem pinf (rd : PReg) : Statement (.pinf rd) := formatR_opcode _ _ _ _ _ _ (by decide)
theorem pldg (rd : PReg) : Statement (.pldg rd) := formatR_opcode _ _ _ _ _ _ (by decide)
theorem pmov (rd : PReg) (rs1 : PReg) : Statement (.pmov rd rs1) := formatR_opcode _ _ _ _ _ _ (by decide)
theorem padd (rd : PReg) (rs1 : PReg) (rs2 : PReg) : Statement (.padd rd rs1 rs2) := formatR_opcode _ _ _ _ _ _ (by decide)
theorem pmul (rd : PReg) (rs1 : PReg) (rs2 : XReg) : Statement (.pmul rd rs1 rs2) := formatR_opcode _ _ _ _ _ _ (by decide)
theorem peq (rd : XReg) (rs1 : PReg) (rs2 : PReg) : Statement (.peq rd rs1 rs2) := formatR_opcode _ _ _ _ _ _ (by decide)
theorem pisinf (rd : XReg) (rs1 : PReg) : Statement (.pisinf rd rs1) := formatR_opcode _ _ _ _ _ _ (by decide)
theorem pgetx (rd : XReg) (rs1 : PReg) : Statement (.pgetx rd rs1) := formatR_opcode _ _ _ _ _ _ (by decide)
theorem pgety (rd : XReg) (rs1 : PReg) : Statement (.pgety rd rs1) := formatR_opcode _ _ _ _ _ _ (by decide)
theorem keygen (rd : PReg) (rs1 : XReg) : Statement (.keygen rd rs1) := formatR_opcode _ _ _ _ _ _ (by decide)
theorem secenc (rs1 : PReg) (c : Bool) : Statement (.secenc rs1 c) := formatR_opcode _ _ _ _ _ _ (by decide)
theorem secdec (rd : PReg) : Statement (.secdec rd) := formatR_opcode _ _ _ _ _ _ (by decide)
theorem addr (rs1 : PReg) (c : Bool) (t : Bool) : Statement (.addr rs1 c t) := formatR_opcode _ _ _ _ _ _ (by decide)
theorem wif (rs1 : XReg) (c : Bool) (t : Bool) : Statement (.wif rs1 c t) := formatR_opcode _ _ _ _ _ _ (by decide)
theorem nonce (rd : XReg) (rs1 : XReg) : Statement (.nonce rd rs1) := formatR_opcode _ _ _ _ _ _ (by decide)
theorem sign (rd : XReg) (rs3 : XReg) (rs1 : XReg) : Statement (.sign rd rs3 rs1) := formatR_opcode _ _ _ _ _ _ (by decide)
theorem verify (rd : XReg) (rs3 : PReg) (rs1 : XReg) (rs2 : XReg) : Statement (.verify rd rs3 rs1 rs2) := formatR_opcode _ _ _ _ _ _ (by decide)
theorem derenc (rs1 : XReg) (rs2 : XReg) : Statement (.derenc rs1 rs2) := formatR_opcode _ _ _ _ _ _ (by decide)
theorem derdec (rd : XReg) (rs3 : XReg) : Statement (.derdec rd rs3) := formatR_opcode _ _ _ _ _ _ (by decide)
theorem b58enc : Statement (.b58enc) := formatR_opcode _ _ _ _ _ _ (by decide)
theorem b58dec : Statement (.b58dec) := formatR_opcode _ _ _ _ _ _ (by decide)
theorem b58cenc : Statement (.b58cenc) := formatR_opcode _ _ _ _ _ _ (by decide)
theorem b58cdec : Statement (.b58cdec) := formatR_opcode _ _ _ _ _ _ (by decide)
theorem h256 : Statement (.h256) := formatR_opcode _ _ _ _ _ _ (by decide)
theorem h160 : Statement (.h160) := formatR_opcode _ _ _ _ _ _ (by decide)

/-- All of them at once. -/
theorem number_eq (i : Instr) : Statement i := by
  cases i
  case nop => exact nop
  case li => exact li _ _
  case ldc => exact ldc _ _
  case mov => exact mov _ _
  case setlen => exact setlen _
  case getlen => exact getlen _
  case ldbe => exact ldbe _ _ _
  case ldle => exact ldle _ _ _
  case stbe => exact stbe _ _ _
  case fred => exact fred _ _
  case fadd => exact fadd _ _ _
  case fsub => exact fsub _ _ _
  case fneg => exact fneg _ _
  case fmul => exact fmul _ _ _
  case finv => exact finv _ _
  case fdiv => exact fdiv _ _ _
  case fpow => exact fpow _ _ _ _
  case fsqrt => exact fsqrt _ _
  case fisz => exact fisz _ _
  case feq => exact feq _ _ _
  case pcont => exact pcont _ _ _
  case pnew => exact pnew _ _ _
  case pinf => exact pinf _
  case pldg => exact pldg _
  case pmov => exact pmov _ _
  case padd => exact padd _ _ _
  case pmul => exact pmul _ _ _
  case peq => exact peq _ _ _
  case pisinf => exact pisinf _ _
  case pgetx => exact pgetx _ _
  case pgety => exact pgety _ _
  case keygen => exact keygen _ _
  case secenc => exact secenc _ _
  case secdec => exact secdec _
  case addr => exact addr _ _ _
  case wif => exact wif _ _ _
  case nonce => exact nonce _ _
  case sign => exact sign _ _ _
  case verify => exact verify _ _ _ _
  case derenc => exact derenc _ _
  case derdec => exact derdec _ _
  case b58enc => exact b58enc
  case b58dec => exact b58dec
  case b58cenc => exact b58cenc
  case b58cdec => exact b58cdec
  case h256 => exact h256
  case h160 => exact h160

end Sys2Proof.Laws.Opcode
end

