-- ==== Sys2Proof/Tests/Slice0.lean ====
section
/-!
SUPPORT. Tests: the words, the values and the faults are the spec's own (30_encoding R80, the examples of the command
rules, 95_test_vectors and 96_test_vectors_crypto), and the witnesses for the hypotheses of the obligations.
-/

namespace Sys2Proof.Tests

open Sys2Proof.Machine

set_option Elab.async false

/-! ### Small states and what is read of a result -/

/-- The state after reset with the given X registers. -/
def regs (l : List (XReg × Nat)) : State := l.foldl (fun s r => s.writeX r.1 (word r.2)) State.reset

/-- The same with the message `bs`. -/
def say (bs : Bytes) (l : List (XReg × Nat)) : State :=
  { regs l with buf := Memory.writeBytes [] 0 bs, len := Fin.ofNat 257 bs.length }

/-- The same with a point in `P0`. -/
def at0 (q : Point) (s : State) : State := s.writeP 0 q

/-- The next state of a result, or the state after reset. -/
def nextOf (r : Result) : Option State :=
  match r with
  | .next t => some t
  | .fault _ => none
  | .refused _ => none

/-- `X[i]` after a result that set no fault. -/
def xOf (r : Result) (i : XReg) : Option Nat :=
  (nextOf r).bind fun t => if t.err = 0 then some (t.readX i).toNat else none

/-- `P[i]` after a result that set no fault. -/
def pOf (r : Result) (i : PReg) : Option Point :=
  (nextOf r).bind fun t => if t.err = 0 then some (t.readP i) else none

/-- `MSG` after a result that set no fault. -/
def msgOf (r : Result) : Option Bytes := (nextOf r).bind fun t => if t.err = 0 then some t.msg else none

/-- `ERR` after a result. -/
def errOf (r : Result) : Option Nat := (nextOf r).map fun t => t.err.toNat

/-- `2G` of 42_curve. -/
def twoG : Point := mkPoint 0xC6047F9441ED7D6D3045406E95C07CD85C778E4B8CEF3CA7ABAC09B95C709EE5
  0x1AE168FEA63DC339A3C58419466CEAEEF7F632653266D0E1236431A950CFE52A

/-- `3G` of 42_curve. -/
def threeG : Point := mkPoint 0xF9308A019258C31049344F85F89D5229B531C845836F99B08601F113BCE036F9
  0x388F7B0F632DE8140FE337E62A37F3566500A99934C2231B6CB9FD7584B8E672

/-- `-G` of 42_curve. -/
def minusG : Point := mkPoint Config.gx 0xB7C52588D95C3B9AA25B0403F1EEF75702E84BB7597AABE663B82F6F04EF2777

/-- The public key of secret 5002 (95_test_vectors S1). -/
def key5002 : Point := mkPoint 0x0F85CB0C917647FADFD31E641231D3A01AC9D3D8A680AAB2457E0036BF34D37E
  0x6949B302843A33CDF068589C8330BB5C09C1739420D65B7B33CFAB6D10118D97

/-- The digest `zA` of R204. -/
def digestA : Nat := 0xA0DC65FFCA799873CBEA0AC274015B9526505DAAAED385155425F7337704883E

/-- `K2` and `V2` of 96_test_vectors_crypto E1. -/
def loopE1 : NonceLoop where
  k := bytesBE 0xF457C01688026EE0B9236E5C7FF1478007AD0B697855F592EFA9468ECF0C1F86 32
  v := bytesBE 0xA196437A8F26FBC9E519E4FD4B5D10D62E6A5306C98CA431B96131F403BFF4AE 32

/-- `k` of E1. -/
def nonceE1 : Nat := 0x8F8A276C19F4149656B280621E358CCE24F5F52542772691EE69063B74F15D15

/-- `r` of R206. -/
def sigR : Nat := 0x934B1EA10A4B3C1757E2B0C017D0B6143CE3C9A7E6A4A49860D7A6AB210EE3D8

/-- `s` of R206. -/
def sigS : Nat := 0x2442CE9D2B916064108014783E923EC36B49743E2FFA1C4496F01A512AAFD9E5

/-! ### WellFormed: an ill-formed term for each check (R77 cases (d) and (e)) -/

theorem test_illformed_ldc : (Instr.ldc 1 6).wellFormed = false := by decide
theorem test_illformed_setlen : (Instr.setlen 257).wellFormed = false := by decide
theorem test_illformed_ldbe : (Instr.ldbe 1 0 33).wellFormed = false := by decide
theorem test_illformed_ldle : (Instr.ldle 1 0 33).wellFormed = false := by decide
theorem test_illformed_stbe : (Instr.stbe 1 0 33).wellFormed = false := by decide
theorem test_illformed_sign : (Instr.sign 4 4 1).wellFormed = false := by decide
theorem test_illformed_derdec : (Instr.derdec 1 1).wellFormed = false := by decide
theorem test_wellformed_bounds : (Instr.ldc 1 5).wellFormed = true ∧ (Instr.setlen 256).wellFormed = true ∧
    (Instr.ldbe 1 255 32).wellFormed = true ∧ (Instr.sign 4 5 4).wellFormed = true := by decide

/-! ### Decoding: a word of the spec for every command -/

theorem test_decode_nop : decode 0x00000000 = .ok .nop := by decide
theorem test_decode_li : decode 0x13880101 = .ok (.li 1 5000) := by decide
theorem test_decode_ldc : decode 0x00010202 = .ok (.ldc 2 1) := by decide
theorem test_decode_mov : decode 0x00001203 = .ok (.mov 2 1) := by decide
theorem test_decode_setlen : decode 0x00200004 = .ok (.setlen 32) := by decide
theorem test_decode_getlen : decode 0x00000705 = .ok (.getlen 7) := by decide
theorem test_decode_ldbe : decode 0x01020406 = .ok (.ldbe 4 1 32) := by decide
theorem test_decode_ldle : decode 0x00004107 = .ok (.ldle 1 0 4) := by decide
theorem test_decode_stbe : decode 0x00004108 = .ok (.stbe 1 0 4) := by decide
theorem test_decode_fred : decode 0x00001210 = .ok (.fred 2 1) := by decide
theorem test_decode_fadd : decode 0x00021311 = .ok (.fadd 3 1 2) := by decide
theorem test_decode_fsub : decode 0x00021312 = .ok (.fsub 3 1 2) := by decide
theorem test_decode_fneg : decode 0x00001213 = .ok (.fneg 2 1) := by decide
theorem test_decode_fmul : decode 0x00021314 = .ok (.fmul 3 1 2) := by decide
theorem test_decode_finv : decode 0x00001215 = .ok (.finv 2 1) := by decide
theorem test_decode_fdiv : decode 0x00021316 = .ok (.fdiv 3 1 2) := by decide
theorem test_decode_fpow : decode 0x01021317 = .ok (.fpow 3 1 2 true) := by decide
theorem test_decode_fsqrt : decode 0x00001218 = .ok (.fsqrt 2 1) := by decide
theorem test_decode_fisz : decode 0x00001219 = .ok (.fisz 2 1) := by decide
theorem test_decode_feq : decode 0x0002131A = .ok (.feq 3 1 2) := by decide
theorem test_decode_pcont : decode 0x00021320 = .ok (.pcont 3 1 2) := by decide
theorem test_decode_pnew : decode 0x00021021 = .ok (.pnew 0 1 2) := by decide
theorem test_decode_pinf : decode 0x00000322 = .ok (.pinf 3) := by decide
theorem test_decode_pldg : decode 0x00000023 = .ok (.pldg 0) := by decide
theorem test_decode_pmov : decode 0x00000124 = .ok (.pmov 1 0) := by decide
theorem test_decode_padd : decode 0x00010225 = .ok (.padd 2 0 1) := by decide
theorem test_decode_pmul : decode 0x00010126 = .ok (.pmul 1 0 1) := by decide
theorem test_decode_peq : decode 0x00010127 = .ok (.peq 1 0 1) := by decide
theorem test_decode_pisinf : decode 0x00000128 = .ok (.pisinf 1 0) := by decide
theorem test_decode_pgetx : decode 0x00000129 = .ok (.pgetx 1 0) := by decide
theorem test_decode_pgety : decode 0x0000022A = .ok (.pgety 2 0) := by decide
theorem test_decode_keygen : decode 0x00001130 = .ok (.keygen 1 1) := by decide
theorem test_decode_secenc : decode 0x01001031 = .ok (.secenc 1 true) := by decide
theorem test_decode_secdec : decode 0x00000232 = .ok (.secdec 2) := by decide
theorem test_decode_addr : decode 0x02001033 = .ok (.addr 1 false true) := by decide
theorem test_decode_wif : decode 0x03001034 = .ok (.wif 1 true true) := by decide
theorem test_decode_nonce : decode 0x00001240 = .ok (.nonce 2 1) := by decide
theorem test_decode_sign : decode 0x00501441 = .ok (.sign 4 5 1) := by decide
theorem test_decode_verify : decode 0x00154642 = .ok (.verify 6 1 4 5) := by decide
theorem test_decode_derenc : decode 0x00021043 = .ok (.derenc 1 2) := by decide
theorem test_decode_derdec : decode 0x00200144 = .ok (.derdec 1 2) := by decide
theorem test_decode_b58enc : decode 0x00000050 = .ok .b58enc := by decide
theorem test_decode_b58dec : decode 0x00000051 = .ok .b58dec := by decide
theorem test_decode_b58cenc : decode 0x00000052 = .ok .b58cenc := by decide
theorem test_decode_b58cdec : decode 0x00000053 = .ok .b58cdec := by decide
theorem test_decode_h256 : decode 0x00000060 = .ok .h256 := by decide
theorem test_decode_h160 : decode 0x00000061 = .ok .h160 := by decide

theorem test_decode_table_word : decodeTableWord 32 0x13880101 = some (.li 1 5000) ∧ decodeTableWord 32 0x9 = none := by
  decide

/-- R79, R80: the assembly of two words. -/
theorem test_assembly : assembly (.addr 1 false true) = "ADDR P1, U, TEST" ∧
    assembly (.stbe 1 0 4) = "STBE X1, 0, 4" := by decide +kernel

/-! ### One command a test: values and faults of the rules' examples -/

theorem test_nop : (nextOf (exec .nop State.reset)).map State.statusWord = some 2 := by decide +kernel
theorem test_li : xOf (exec (.li 1 65535) (regs [(1, 2 ^ 255)])) 1 = some 65535 := by decide +kernel
theorem test_ldc : xOf (exec (.ldc 2 1) State.reset) 2 =
    some 0xFFFFFFFFFFFFFFFFFFFFFFFFFFFFFFFEBAAEDCE6AF48A03BBFD25E8CD0364141 := by decide +kernel
theorem test_mov : xOf (exec (.mov 2 1) (regs [(1, 2 ^ 256 - 1)])) 2 = some (2 ^ 256 - 1) := by decide +kernel
theorem test_setlen : (nextOf (exec (.setlen 256) State.reset)).map (·.len.val) = some 256 := by decide +kernel
theorem test_getlen : xOf (exec (.getlen 7) (say (bytesBE 0 33) [])) 7 = some 33 := by decide +kernel
theorem test_ldbe : xOf (exec (.ldbe 1 0 4) (say [0x11, 0x22, 0x33, 0x44] [])) 1 = some 0x11223344 := by
  decide +kernel
theorem test_ldbe_bounds : errOf (exec (.ldbe 1 225 32) State.reset) = some 0x11 := by decide +kernel
theorem test_ldle : xOf (exec (.ldle 1 0 4) (say [0x11, 0x22, 0x33, 0x44] [])) 1 = some 0x44332211 := by
  decide +kernel
theorem test_ldle_edge : xOf (exec (.ldle 1 224 32) (regs [(1, 7)])) 1 = some 0 := by decide +kernel
theorem test_stbe : (nextOf (exec (.stbe 1 0 4) (regs [(1, 0x0102)]))).map
    (fun t => Memory.readBytes t.buf 0 4) = some [0x00, 0x00, 0x01, 0x02] := by decide +kernel
theorem test_stbe_overflow : errOf (exec (.stbe 1 0 1) (regs [(1, 0x0102)])) = some 0x08 ∧
    errOf (exec (.stbe 1 255 2) (regs [(1, 2 ^ 255)])) = some 0x11 := by decide +kernel

theorem test_fred : xOf (exec (.fred 2 1) (regs [(1, 2 ^ 256 - 1)])) 2 = some 0x1000003D0 := by decide +kernel
theorem test_fadd : xOf (exec (.fadd 3 1 2) (regs [(1, Config.prime - 1), (2, 2)])) 3 = some 1 := by decide +kernel
theorem test_fsub : xOf (exec (.fsub 3 1 2) (regs [(1, 5), (2, 7)])) 3 = some (Config.prime - 2) := by decide +kernel
theorem test_fneg : xOf (exec (.fneg 2 1) (regs [(1, 1)])) 2 = some (Config.prime - 1) := by decide +kernel
theorem test_fneg_zero : xOf (exec (.fneg 2 1) (regs [(1, Config.prime)])) 2 = some 0 := by decide +kernel
theorem test_fmul : xOf (exec (.fmul 3 1 2) (regs [(1, 2 ^ 255), (2, 2)])) 3 = some 0x1000003D1 := by decide +kernel
theorem test_finv : xOf (exec (.finv 2 1) (regs [(1, 2)])) 2 =
    some 0x7FFFFFFFFFFFFFFFFFFFFFFFFFFFFFFFFFFFFFFFFFFFFFFFFFFFFFFF7FFFFE18 := by decide +kernel
theorem test_finv_zero : errOf (exec (.finv 2 1) (regs [(1, Config.prime)])) = some 0x12 := by decide +kernel
theorem test_fdiv : xOf (exec (.fdiv 3 1 2) (regs [(1, 6), (2, 3)])) 3 = some 2 := by decide +kernel
theorem test_fdiv_zero : errOf (exec (.fdiv 3 1 2) (regs [(1, 0), (2, 0)])) = some 0x12 := by decide +kernel
theorem test_fpow : xOf (exec (.fpow 3 1 2 true) (regs [(1, 2), (2, 3)])) 3 =
    some 0x1FFFFFFFFFFFFFFFFFFFFFFFFFFFFFFFFFFFFFFFFFFFFFFFFFFFFFFFDFFFFF86 := by decide +kernel
theorem test_fpow_zero : xOf (exec (.fpow 3 1 2 false) (regs [(1, 0), (2, 0)])) 3 = some 1 ∧
    xOf (exec (.fpow 3 1 2 false) (regs [(1, 0), (2, Config.prime - 1)])) 3 = some 0 := by decide +kernel
theorem test_fsqrt : xOf (exec (.fsqrt 2 1) (regs [(1, 9)])) 2 = some (Config.prime - 3) := by decide +kernel
theorem test_fsqrt_nonsquare : xOf (exec (.fsqrt 2 1) (regs [(1, 3)])) 2 =
    some 0x0A2D2BA93507F1DF233770C2A797962CC61F6D15DA14ECD47D8D27AE1CD5F852 := by decide +kernel
theorem test_fisz : xOf (exec (.fisz 2 1) (regs [(1, Config.prime)])) 2 = some 1 := by decide +kernel
theorem test_feq : xOf (exec (.feq 3 1 2) (regs [(1, 1), (2, Config.prime + 1)])) 3 = some 1 := by decide +kernel

theorem test_pcont : xOf (exec (.pcont 3 1 2) (regs [(1, Config.gx), (2, Config.gy + 1)])) 3 = some 0 := by
  decide +kernel
theorem test_pnew : pOf (exec (.pnew 2 1 2) (regs [(1, Config.prime + 1),
    (2, 0x4218F20AE6C646B363DB68605822FB14264CA8D2587FDD6FBC750D587E76A7EE)])) 2 =
    some (mkPoint 1 0x4218F20AE6C646B363DB68605822FB14264CA8D2587FDD6FBC750D587E76A7EE) := by decide +kernel
theorem test_pnew_off : errOf (exec (.pnew 0 1 2) (regs [(1, 1), (2, 1)])) = some 0x01 := by decide +kernel
theorem test_pinf : pOf (exec (.pinf 0) (at0 basePoint State.reset)) 0 = some .inf := by decide +kernel
theorem test_pldg : pOf (exec (.pldg 3) State.reset) 3 = some basePoint := by decide +kernel
theorem test_pmov : pOf (exec (.pmov 1 0) (at0 twoG State.reset)) 1 = some twoG := by decide +kernel
theorem test_padd_double : pOf (exec (.padd 0 0 0) (at0 basePoint State.reset)) 0 = some twoG := by decide +kernel
theorem test_padd_chord : pOf (exec (.padd 2 0 1) ((at0 basePoint State.reset).writeP 1 twoG)) 2 = some threeG ∧
    pOf (exec (.padd 2 0 1) ((at0 basePoint State.reset).writeP 1 minusG)) 2 = some .inf := by decide +kernel
theorem test_pmul : pOf (exec (.pmul 1 0 1) (at0 basePoint (regs [(1, 3)]))) 1 = some threeG := by decide +kernel
theorem test_pmul_order : pOf (exec (.pmul 1 0 1) (at0 basePoint (regs [(1, Config.order)]))) 1 = some .inf := by
  decide +kernel
theorem test_peq : xOf (exec (.peq 1 0 1) (at0 basePoint State.reset)) 1 = some 0 := by decide +kernel
theorem test_pisinf : xOf (exec (.pisinf 1 0) State.reset) 1 = some 1 := by decide +kernel
theorem test_pgetx : xOf (exec (.pgetx 1 0) (at0 basePoint State.reset)) 1 = some Config.gx := by decide +kernel
theorem test_pgetx_inf : errOf (exec (.pgetx 1 0) State.reset) = some 0x13 := by decide +kernel
theorem test_pgety : xOf (exec (.pgety 2 0) (at0 basePoint State.reset)) 2 = some Config.gy := by decide +kernel

theorem test_keygen : pOf (exec (.keygen 1 1) (regs [(1, 5000)])) 1 =
    some (mkPoint 0xFFE558E388852F0120E46AF2D1B370F85854A8EB0841811ECE0E3E03D282D57C
      0x315DC72890A4F10A1481C031B03B351B0DC79901CA18A00CF009DBDB157A1D10) := by decide +kernel
theorem test_secenc : msgOf (exec (.secenc 0 true) (at0 key5002 State.reset)) =
    some (0x03 :: bytesBE 0x0F85CB0C917647FADFD31E641231D3A01AC9D3D8A680AAB2457E0036BF34D37E 32) := by decide +kernel
theorem test_secenc_inf : errOf (exec (.secenc 0 false) State.reset) = some 0x03 := by decide +kernel
theorem test_secdec : pOf (exec (.secdec 2) (say (0x03 :: bytesBE 1 32) [])) 2 =
    some (mkPoint 1 0xBDE70DF51939B94C9C24979FA7DD04EBD9B3572DA7802290438AF2A681895441) := by decide +kernel
theorem test_secdec_faults : errOf (exec (.secdec 2) (say (0x02 :: bytesBE 5 32) [])) = some 0x01 ∧
    errOf (exec (.secdec 2) (say (0x04 :: bytesBE 1 32) [])) = some 0x14 ∧
    errOf (exec (.secdec 2) (say (bytesBE 1 32) [])) = some 0x04 := by decide +kernel
theorem test_addr : msgOf (exec (.addr 0 false true) (at0 key5002 State.reset)) =
    some ("mmTPbXQFxboEtNRkwfh6K51jvdtHLxGeMA".toList.map fun c => BitVec.ofNat 8 c.toNat) := by decide +kernel
theorem test_wif : msgOf (exec (.wif 1 true false) (regs [(1, 1)])) =
    some ("KwDiBf89QgGbjEhKnhXJuH7LrciVrZi3qYjgd9M7rFU73sVHnoWn".toList.map fun c => BitVec.ofNat 8 c.toNat) := by
  decide +kernel

theorem test_nonce_seed : nonceSeed 1 digestA = loopE1 := by decide +kernel
theorem test_nonce : nonceCandidate loopE1 = nonceE1 := by decide +kernel
theorem test_sign_low_s : signS 1 digestA nonceE1 sigR = sigS := by decide +kernel
theorem test_sign_length : errOf (exec (.sign 4 5 1) (say [0x00] [])) = some 0x04 := by decide +kernel
theorem test_verify_zero : xOf (exec (.verify 6 0 4 5) (say (bytesBE digestA 32) [(6, 7), (5, Config.order)])) 6 =
    some 0 := by decide +kernel
theorem test_verify_length : errOf (exec (.verify 6 0 4 5) (say (bytesBE 0 31) [])) = some 0x04 := by decide +kernel
theorem test_derenc : msgOf (exec (.derenc 1 2) (regs [(1, 0x7F), (2, 0x80)])) =
    some [0x30, 0x07, 0x02, 0x01, 0x7F, 0x02, 0x02, 0x00, 0x80] := by decide +kernel
theorem test_derenc_zero : msgOf (exec (.derenc 1 2) State.reset) = some [0x30, 0x04, 0x02, 0x00, 0x02, 0x00] := by
  decide +kernel
theorem test_derdec : xOf (exec (.derdec 1 2) (say [0x30, 0x06, 0x02, 0x01, 0x01, 0x02, 0x01, 0x09] [])) 2 = some 9 := by
  decide +kernel
theorem test_derdec_faults :
    errOf (exec (.derdec 1 2) (say [0x31, 0x06, 0x02, 0x01, 0x01, 0x02, 0x01, 0x01] [])) = some 0x05 ∧
    errOf (exec (.derdec 1 2) (say [0x30, 0x05, 0x02, 0x01, 0x01, 0x02, 0x01, 0x01] [])) = some 0x07 ∧
    errOf (exec (.derdec 1 2) (say [0x30, 0x06, 0x03, 0x01, 0x01, 0x02, 0x01, 0x01] [])) = some 0x06 ∧
    errOf (exec (.derdec 1 2) (say [0x30, 0x06, 0x02, 0x01, 0x01, 0x02, 0x02, 0x01] [])) = some 0x07 := by
  decide +kernel

theorem test_b58enc : msgOf (exec .b58enc (say [0x00, 0x00, 0xFF, 0xFF] [])) = some [0x31, 0x31, 0x4C, 0x55, 0x76] := by
  decide +kernel
theorem test_b58dec : msgOf (exec .b58dec (say [0x31, 0x31, 0x4C, 0x55, 0x76] [])) = some [0x00, 0x00, 0xFF, 0xFF] := by
  decide +kernel
theorem test_b58dec_char : errOf (exec .b58dec (say [0x30] [])) = some 0x15 := by decide +kernel
theorem test_b58cenc : msgOf (exec .b58cenc State.reset) =
    some ("3QJmnh".toList.map fun c => BitVec.ofNat 8 c.toNat) := by decide +kernel
theorem test_b58cdec : msgOf (exec .b58cdec (say ("3QJmnh".toList.map fun c => BitVec.ofNat 8 c.toNat) [])) =
    some [] := by decide +kernel
theorem test_b58cdec_faults :
    errOf (exec .b58cdec (say ("3QJmnj".toList.map fun c => BitVec.ofNat 8 c.toNat) [])) = some 0x16 ∧
    errOf (exec .b58cdec (say [0x31, 0x31] [])) = some 0x04 ∧
    errOf (exec .b58cdec (say ("3QJmn0".toList.map fun c => BitVec.ofNat 8 c.toNat) [])) = some 0x15 := by
  decide +kernel
theorem test_h256 : msgOf (exec .h256 State.reset) =
    some (bytesBE 0x5DF6E0E2761359D30A8275058E299FCC0381534545F55CF43E41983F5D4C9456 32) := by decide +kernel
theorem test_h160 : msgOf (exec .h160 (say [0x61, 0x62, 0x63] [])) =
    some (bytesBE 0xBB1BE98C142444D7A56AA3981C3942A978E4DC33 20) := by decide +kernel

/-! ### The step and the bus -/

/-- One step of a state, as an option. -/
def step1 (s : State) : Option State := nextOf (step s)

/-- The state after reset with the host's next accesses. -/
def hosted (ops : List HostOp) : State := { State.reset with hostOps := ops }

theorem test_first_instruction : xOf (step (State.reset.withFetchWord 32 0x13880101)) 1 = some 5000 := by
  decide +kernel
theorem test_issue_and_run : ((run 2 (hosted [.write 0x000 32 0x13880101])).map fun t =>
    ((t.readX 1).toNat, t.statusWord, t.cmd)) = some (5000, 2, 0x13880101) := by decide +kernel
theorem test_illegal_word : (step1 (State.reset.withFetchWord 32 0x00000425)).map (fun t =>
    (t.statusWord, t.ecmd)) = some (0x1006, 0x00000425) := by decide +kernel
theorem test_dropped_while_faulted : ((run 2 (hosted [.write 0x000 32 0x9, .wait, .write 0x000 32 0x0])).map fun t =>
    (t.cmd, t.err)) = some (0x9, 0x10) ∧
    ((run 3 (hosted [.write 0x000 32 0x9, .wait, .write 0x000 32 0x0])).map fun t =>
    (t.cmd, t.err, t.busy)) = some (0x9, 0x10, false) := by decide +kernel
theorem test_clear_fault : ((run 3 (hosted [.write 0x000 32 0x9, .wait, .write 0x008 32 0x3])).map fun t =>
    (t.statusWord, t.ctrlWord, t.irq)) = some (2, 1, true) := by decide +kernel
theorem test_mixed_views : ((run 1 (hosted [.write 0x400 32 0x44332211])).map fun t =>
    (Memory.readBytes t.buf 0 4, t.len.val)) = some ([0x11, 0x22, 0x33, 0x44], 0) := by decide +kernel
theorem test_register_window : (step1 { regs [(1, 0x0102)] with hostOps := [.read 0x220 32] }).map (·.reply) =
    some (.word 0x00000102) := by decide +kernel
theorem test_bus_error : (step1 (hosted [.write 0x201 32 0x5])).map (·.reply) = some .busError ∧
    (step1 (hosted [.read 0x600 32])).map (·.reply) = some .busError ∧
    (step1 (hosted [.read 0x200 8])).map (·.reply) = some .busError := by decide +kernel
theorem test_length_above_256 : (step1 (hosted [.write 0x010 32 257])).map (·.len.val) = some 0 ∧
    (step1 (hosted [.write 0x010 32 256])).map (·.len.val) = some 256 := by decide +kernel
theorem test_busy_status : (step1 { State.reset.issue 0x00001240 with hostOps := [.read 0x004 32] }).map (·.reply) =
    some (.word 1) := by decide +kernel
theorem test_busy_write_dropped : (step1 { State.reset.issue 0x00001240 with hostOps := [.write 0x200 32 5] }).map
    (fun t => ((t.readX 0).toNat, t.busy)) = some (0, true) := by decide +kernel
theorem test_reset_while_busy : (step1 { State.reset.issue 0x00001240 with hostOps := [.reset] }) =
    some State.reset := by decide +kernel

/-! ### Witnesses: the hypotheses of the obligations are met, at the ends of their ranges -/

/-- A running command with the word `w`. -/
def running (w : Word32) (ops : List HostOp) : State := { State.reset.issue w with hostOps := ops }

/-- A state with the base point in `P0` and a 32-byte digest as message. -/
def signer : State := at0 basePoint (say (bytesBE digestA 32) [(1, 1)])

theorem signer_pointsValid : signer.pointsValid := by
  show ∀ i : PReg, (signer.readP i).valid = true
  decide +kernel

theorem signer_bufCanonical : signer.bufCanonical := by
  show Memory.wf signer.buf = true
  decide +kernel

theorem reset_pointsValid : State.reset.pointsValid := by
  show ∀ i : PReg, (State.reset.readP i).valid = true
  decide +kernel

theorem test_witness_DecodeOfEncode : (Instr.sign 15 0 15).wellFormed = true := by decide

theorem test_witness_LegalWordsAreEncodings : decode 0xFFFFF101 = .error .unusedNotZero ∧
    decode 0xFFFF0F01 = .ok (.li 15 65535) := by decide

theorem test_witness_IllegalWordsFault : (running 0x00000009 []).busy = true ∧ (running 0x00000009 []).hostOps = [] ∧
    (∀ i : Instr, i.wellFormed = true → encode i ≠ (running 0x00000009 []).cmd) := by
  refine ⟨rfl, rfl, fun i _ e => ?_⟩
  have h : Laws.Opcode.number i = 9 := (Laws.Opcode.number_eq i).symm.trans (by rw [e]; rfl)
  cases i <;> simp [Laws.Opcode.number] at h

theorem test_witness_IllegalWordsFault_opcode : (0x000000FF : Word32).toNat % 256 ∉
    [0x00, 0x01, 0x02, 0x03, 0x04, 0x05, 0x06, 0x07, 0x08, 0x10, 0x11, 0x12, 0x13, 0x14, 0x15, 0x16, 0x17, 0x18, 0x19, 0x1A,
     0x20, 0x21, 0x22, 0x23, 0x24, 0x25, 0x26, 0x27, 0x28, 0x29, 0x2A, 0x30, 0x31, 0x32, 0x33, 0x34, 0x40, 0x41, 0x42, 0x43, 0x44,
     0x50, 0x51, 0x52, 0x53, 0x60, 0x61] := by decide

theorem test_witness_StepRunsTheDecodedCommand : ((running 0x13880101 []).busy = true ∧
    (running 0x13880101 []).hostOps = [] ∧ decode (running 0x13880101 []).cmd = .ok (.li 1 5000)) ∧
    (State.reset.busy = false ∧ State.reset.hostOps = []) ∧ (hosted [.wait]).hostOps = .wait :: [] := by decide

theorem test_witness_CommandRegister : ((hosted [.write 0x000 32 0x13880101]).hostOps = .write 0x000 32 0x13880101 :: [] ∧
    (hosted []).busy = false ∧ (hosted []).err = 0) ∧
    ((running 0 [.write 0x000 32 1]).hostOps = .write 0x000 32 1 :: [] ∧ (running 0 [.write 0x000 32 1]).busy = true) ∧
    (State.reset.takeFault .illegalCmd).err ≠ 0 ∧
    ((hosted [.read 0x000 32]).hostOps = .read 0x000 32 :: [] ∧ (hosted [.read 0x000 32]).busy = false) := by
  decide

theorem test_witness_StatusRegister : (hosted [.read 0x004 32]).hostOps = .read 0x004 32 :: [] ∧
    (hosted [.write 0x004 32 2]).hostOps = .write 0x004 32 2 :: [] ∧ (hosted [.write 0x004 32 2]).busy = false := by decide

theorem test_witness_ControlRegister : (hosted [.read 0x008 32]).hostOps = .read 0x008 32 :: [] ∧
    (hosted [.write 0x008 32 3]).hostOps = .write 0x008 32 3 :: [] ∧ (hosted [.write 0x008 32 3]).busy = false := by decide

theorem test_witness_LengthAndFaultRecord : (hosted [.read 0x00C 32]).hostOps = .read 0x00C 32 :: [] ∧
    (hosted [.write 0x00C 32 5]).hostOps = .write 0x00C 32 5 :: [] ∧
    (hosted [.read 0x010 32]).hostOps = .read 0x010 32 :: [] ∧
    (hosted [.write 0x010 32 256]).hostOps = .write 0x010 32 256 :: [] ∧ (256 : Word32).toNat ≤ 256 ∧
    256 < (257 : Word32).toNat := by decide

theorem test_witness_RegisterWindow : (hosted [.read (0x200 + 32 * 15 + 4 * 7) 32]).hostOps =
      .read (0x200 + 32 * ((15 : XReg) : Nat) + 4 * 7) 32 :: [] ∧
    (hosted [.write 0x200 32 5]).hostOps = .write (0x200 + 32 * ((0 : XReg) : Nat) + 4 * 0) 32 5 :: [] := by decide

theorem test_witness_BufferWindow : (hosted [.read (0x400 + 4 * 63) 32]).hostOps = .read (0x400 + 4 * 63) 32 :: [] ∧
    (hosted [.write 0x400 32 5]).hostOps = .write (0x400 + 4 * 0) 32 5 :: [] ∧
    Memory.wf (hosted [.write 0x400 32 5]).buf = true := by decide

theorem test_witness_ReservedWordsAndBusErrors : (hosted [.read 0x014 32]).hostOps = .read 0x014 32 :: [] ∧
    (hosted [.write 0x5FC 32 5]).hostOps = .write 0x5FC 32 5 :: [] ∧
    (hosted [.read 0x600 32]).hostOps = .read 0x600 32 :: [] ∧
    (hosted [.write 0x202 16 5]).hostOps = .write 0x202 16 5 :: [] := by decide

theorem test_witness_AccessesWhileBusy : (running 0 [.read 0x004 32]).busy = true ∧
    (running 0 [.read 0x004 32]).statusOk ∧ (running 0 [.read 0x004 32]).hostOps = .read 0x004 32 :: [] ∧
    (running 0 [.write 0x5FC 32 5]).hostOps = .write 0x5FC 32 5 :: [] :=
  ⟨rfl, ⟨by decide, fun _ => rfl, by decide⟩, rfl, rfl⟩

theorem test_witness_ResetEndsAnyCommand : (running 0 [.reset]).hostOps = .reset :: [] := rfl

theorem reset_completed : State.reset.Completed State.reset.complete := ⟨⟨rfl, rfl, rfl, rfl, rfl⟩, rfl, rfl, rfl, rfl, rfl⟩

theorem reset_faulted (e : ErrCode) : State.reset.Faulted (State.reset.takeFault e) e :=
  ⟨⟨rfl, rfl, rfl, rfl, rfl⟩, rfl, rfl, rfl, rfl, rfl, fun _ _ => rfl, fun _ _ => rfl, fun _ _ => rfl, rfl⟩

theorem test_witness_InterruptLine : State.reset.Completed State.reset.complete ∧
    State.reset.Faulted (State.reset.takeFault .invZero) .invZero ∧
    (hosted [.write 0x008 32 1]).busy = false ∧ (hosted [.write 0x008 32 1]).hostOps = .write 0x008 32 1 :: [] ∧
    (2 : Word32).getLsbD 1 = true ∧ (hosted []).err = 0 :=
  ⟨reset_completed, reset_faulted _, rfl, rfl, by decide, rfl⟩

theorem test_witness_ReturnFromFault : State.reset.err = 0 ∧
    exec (.pgetx 1 0) State.reset = .next (State.reset.takeFault .noCoord) ∧
    State.reset.Faulted (State.reset.takeFault .noCoord) .noCoord ∧
    (2 : Word32).getLsbD 0 = State.reset.ie ∧ (2 : Word32).getLsbD 1 = true :=
  ⟨rfl, rfl, reset_faulted _, by decide, by decide⟩

theorem test_witness_FaultsOfEachCommand : (Instr.setlen 256).wellFormed = true := by decide

theorem test_witness_CommandsDependOnOperandsOnly :
    State.reset.x = (running 7 [.wait]).x ∧ State.reset.p = (running 7 [.wait]).p ∧
    State.reset.buf = (running 7 [.wait]).buf ∧ State.reset.len = (running 7 [.wait]).len ∧
    State.reset.nonceLoop = (running 7 [.wait]).nonceLoop := by decide

theorem test_witness_CommandsKeepTheHostSide : exec .nop State.reset = .next State.reset.complete := rfl

theorem test_witness_PointsStayOnTheCurve : signer.pointsValid ∧ step signer = .next signer ∧
    writesPoint .nop = false ∧ exec .nop State.reset = .next State.reset.complete :=
  ⟨signer_pointsValid, rfl, rfl, rfl⟩

theorem test_witness_BufferStaysCanonical : signer.bufCanonical ∧ step signer = .next signer :=
  ⟨signer_bufCanonical, rfl⟩

theorem test_witness_StatusStaysLegal : State.reset.statusOk ∧ State.reset.nonceLoopOk ∧
    step State.reset = .next State.reset :=
  ⟨⟨by decide, by decide, by decide⟩, fun _ h => by simp [State.reset] at h, rfl⟩

theorem test_witness_ErrorCodesStayPossible : (State.reset.takeFault .b58Checksum).errPossible ∧
    step State.reset = .next State.reset :=
  ⟨.inr ⟨.b58Checksum, rfl, by decide, by decide⟩, rfl⟩

theorem test_witness_MoveCommands : (5 : BitVec 16).toNat ≤ 5 ∧ 5 < (6 : BitVec 16).toNat ∧
    (256 : BitVec 16).toNat ≤ 256 ∧ 256 < (257 : BitVec 16).toNat := by decide

theorem test_witness_BufferLoads : (32 : BitVec 6).toNat ≤ 32 ∧ (224 : BitVec 8).toNat + (32 : BitVec 6).toNat ≤ 256 ∧
    ¬ (225 : BitVec 8).toNat + (32 : BitVec 6).toNat ≤ 256 := by decide

theorem test_witness_BufferStore : signer.bufCanonical ∧ (32 : BitVec 6).toNat ≤ 32 ∧ 32 < (33 : BitVec 6).toNat ∧
    256 ^ (0 : BitVec 6).toNat ≤ (signer.readX 1).toNat :=
  ⟨signer_bufCanonical, by decide, by decide, by decide +kernel⟩

theorem test_witness_FieldInverseAndDivision : (State.reset.readX 0).toNat % Config.prime = 0 ∧
    (signer.readX 1).toNat % Config.prime ≠ 0 := by decide +kernel

theorem test_witness_FieldSquareRoot : (∃ r, r * r % Config.prime = 9) :=
  ⟨3, by decide⟩

theorem test_witness_CurveTests : OnCurve Config.gx Config.gy ∧ ¬ OnCurve 0 0 := by
  constructor
  · show Config.gy * Config.gy % Config.prime = (Config.gx * Config.gx * Config.gx + 7) % Config.prime
    decide
  · show ¬ (0 * 0 % Config.prime = (0 * 0 * 0 + 7) % Config.prime)
    decide

theorem test_witness_PointAddition : signer.pointsValid := signer_pointsValid

theorem test_witness_PointMovesAndReads : signer.readP 0 = basePoint ∧ signer.readP 3 = .inf := by decide +kernel

theorem test_witness_PointsFormAGroup : basePoint.valid = true ∧ twoG.valid = true ∧ minusG.valid = true := by
  decide +kernel

theorem test_witness_ScalarMultiplication : signer.pointsValid := signer_pointsValid

theorem test_witness_KeyGeneration : (State.reset.readX 1).toNat = 0 ∧ (signer.readX 1).toNat = 1 ∧
    ((regs [(1, Config.order)]).readX 1).toNat = Config.order := by decide +kernel

theorem test_witness_SecEncode : signer.bufCanonical ∧ signer.readP 1 = .inf ∧ signer.readP 0 = basePoint :=
  ⟨signer_bufCanonical, by decide +kernel, by decide +kernel⟩

theorem test_witness_SecDecode : ((say (0x04 :: bytesBE 0 64) []).len.val = 65 ∧ (say (0x04 :: bytesBE 0 64) []).byte 0 = 0x04) ∧
    (signer.len.val ≠ 33 ∧ signer.len.val ≠ 65) ∧
    ((say (0x03 :: bytesBE 0 32) []).len.val = 33 ∧ (say (0x03 :: bytesBE 0 32) []).byte 0 = 0x03) ∧
    ((say (0x05 :: bytesBE 0 32) []).byte 0 ≠ 0x02 ∧ (say (0x05 :: bytesBE 0 32) []).byte 0 ≠ 0x03) ∧
    (say (0x02 :: bytesBE 0 64) []).byte 0 ≠ 0x04 := by decide +kernel

theorem test_witness_SecRoundTrip : signer.pointsValid ∧ signer.bufCanonical ∧ signer.readP 0 ≠ .inf :=
  ⟨signer_pointsValid, signer_bufCanonical, by decide +kernel⟩

theorem test_witness_AddressAndWalletTexts : signer.bufCanonical ∧ signer.readP 3 = .inf ∧ signer.readP 0 = basePoint :=
  ⟨signer_bufCanonical, by decide +kernel, by decide +kernel⟩

/-- `K` and `V` of E1 before candidate `j`. -/
def loopOfE1 (j : Nat) : NonceLoop := (fun l => ⟨hmac l.k (hmac l.k l.v ++ [0x00]),
  hmac (hmac l.k (hmac l.k l.v ++ [0x00])) (hmac l.k l.v)⟩)^[j] loopE1

/-- `K` after the first round of R203 for E1. -/
def firstKey : Bytes :=
  hmac (List.replicate 32 0x00) (List.replicate 32 0x01 ++ [0x00] ++ bytesBE 1 32 ++ bytesBE digestA 32)

theorem loopOfE1_zero : loopOfE1 0 = loopE1 := rfl

theorem loopOfE1_succ (j : Nat) : loopOfE1 (j + 1) =
    ⟨hmac (loopOfE1 j).k (hmac (loopOfE1 j).k (loopOfE1 j).v ++ [0x00]),
     hmac (hmac (loopOfE1 j).k (hmac (loopOfE1 j).k (loopOfE1 j).v ++ [0x00])) (hmac (loopOfE1 j).k (loopOfE1 j).v)⟩ :=
  Function.iterate_succ_apply' _ _ _

theorem test_two_rounds : NonceLoop.mk (hmac firstKey (hmac firstKey (List.replicate 32 0x01) ++ [0x01] ++ bytesBE 1 32 ++
    bytesBE digestA 32)) (hmac loopE1.k (hmac firstKey (List.replicate 32 0x01))) = loopE1 := by decide +kernel

theorem signer_digest : digestA = (if Config.order ≤ intBE signer.msg then intBE signer.msg - Config.order
    else intBE signer.msg) ∧ (signer.readX 1).toNat = 1 ∧ signer.len.val = 32 := by decide +kernel

theorem candidateE1 : 1 ≤ intBE (hmac loopE1.k loopE1.v) ∧ intBE (hmac loopE1.k loopE1.v) < Config.order := by
  decide +kernel

theorem test_witness_NonceCandidateStep : State.reset.len.val ≠ 32 ∧ ∃ (db zb k1 v1 k2 v2 : Bytes) (l : NonceLoop),
    signer.len.val = 32 ∧
    digestA = (if Config.order ≤ intBE signer.msg then intBE signer.msg - Config.order else intBE signer.msg) ∧
    db = bytesBE (signer.readX 1).toNat 32 ∧ zb = bytesBE digestA 32 ∧
    k1 = hmac (List.replicate 32 0x00) (List.replicate 32 0x01 ++ [0x00] ++ db ++ zb) ∧
    v1 = hmac k1 (List.replicate 32 0x01) ∧ k2 = hmac k1 (v1 ++ [0x01] ++ db ++ zb) ∧ v2 = hmac k2 v1 ∧
    l = signer.nonceLoop.getD (NonceLoop.mk k2 v2) ∧
    1 ≤ intBE (hmac l.k l.v) ∧ intBE (hmac l.k l.v) < Config.order :=
  ⟨by decide, bytesBE 1 32, bytesBE digestA 32, firstKey, hmac firstKey (List.replicate 32 0x01), loopE1.k, loopE1.v,
    loopE1, signer_digest.2.2, signer_digest.1, by rw [signer_digest.2.1], rfl, rfl, rfl,
    (congrArg NonceLoop.k test_two_rounds).symm, (congrArg NonceLoop.v test_two_rounds).symm, rfl, candidateE1⟩

/-- The hypotheses of `NonceCompletes` and `SignCompletes` on the loop, for the command word `w` and its first candidate. -/
def LoopMet (w : Word32) : Prop := ∃ (s : State) (db zb k1 v1 : Bytes) (k v : Nat → Bytes) (c : Nat → Nat),
    s.busy = true ∧ s.hostOps = [] ∧ s.cmd = w ∧ s.nonceLoop = none ∧ s.len.val = 32 ∧
    digestA = (if Config.order ≤ intBE s.msg then intBE s.msg - Config.order else intBE s.msg) ∧
    db = bytesBE (s.readX 1).toNat 32 ∧ zb = bytesBE digestA 32 ∧
    k1 = hmac (List.replicate 32 0x00) (List.replicate 32 0x01 ++ [0x00] ++ db ++ zb) ∧
    v1 = hmac k1 (List.replicate 32 0x01) ∧
    k 0 = hmac k1 (v1 ++ [0x01] ++ db ++ zb) ∧ v 0 = hmac (k 0) v1 ∧
    (∀ j, k (j + 1) = hmac (k j) (hmac (k j) (v j) ++ [0x00])) ∧
    (∀ j, v (j + 1) = hmac (k (j + 1)) (hmac (k j) (v j))) ∧
    (∀ j, c j = intBE (hmac (k j) (v j))) ∧
    (∀ j, j < 0 → ¬ (1 ≤ c j ∧ c j < Config.order)) ∧ 1 ≤ c 0 ∧ c 0 < Config.order

theorem loop_met (w : Word32) : LoopMet w := by
  refine ⟨signer.issue w, bytesBE 1 32, bytesBE digestA 32, firstKey, hmac firstKey (List.replicate 32 0x01),
    fun j => (loopOfE1 j).k, fun j => (loopOfE1 j).v, fun j => intBE (hmac (loopOfE1 j).k (loopOfE1 j).v),
    rfl, rfl, rfl, rfl, signer_digest.2.2, signer_digest.1, ?_, rfl, rfl, rfl, ?_, ?_,
    fun j => congrArg NonceLoop.k (loopOfE1_succ j), fun j => ?_, fun _ => rfl, fun _ h => absurd h (Nat.not_lt_zero _), ?_⟩
  · exact congrArg (bytesBE · 32) signer_digest.2.1.symm
  · exact (congrArg NonceLoop.k test_two_rounds).symm
  · show (loopOfE1 0).v = hmac (loopOfE1 0).k _
    rw [loopOfE1_zero]
    exact (congrArg NonceLoop.v test_two_rounds).symm
  · simp only [loopOfE1_succ]
  · show 1 ≤ intBE (hmac (loopOfE1 0).k (loopOfE1 0).v) ∧ intBE (hmac (loopOfE1 0).k (loopOfE1 0).v) < Config.order
    rw [loopOfE1_zero]
    exact candidateE1

theorem test_witness_NonceCompletes : LoopMet (formatR 0x40 2 1 0 0 0) := loop_met _

theorem test_witness_SignatureValue : (4 : XReg) ≠ 5 ∧ State.reset.len.val ≠ 32 ∧
    ∃ (db zb k1 v1 k2 v2 : Bytes) (l : NonceLoop), signer.len.val = 32 ∧
    digestA = (if Config.order ≤ intBE signer.msg then intBE signer.msg - Config.order else intBE signer.msg) ∧
    db = bytesBE (signer.readX 1).toNat 32 ∧ zb = bytesBE digestA 32 ∧
    k1 = hmac (List.replicate 32 0x00) (List.replicate 32 0x01 ++ [0x00] ++ db ++ zb) ∧
    v1 = hmac k1 (List.replicate 32 0x01) ∧ k2 = hmac k1 (v1 ++ [0x01] ++ db ++ zb) ∧ v2 = hmac k2 v1 ∧
    l = signer.nonceLoop.getD (NonceLoop.mk k2 v2) ∧
    1 ≤ intBE (hmac l.k l.v) ∧ intBE (hmac l.k l.v) < Config.order :=
  ⟨by decide, test_witness_NonceCandidateStep⟩

theorem test_witness_SignCompletes : (4 : XReg) ≠ 5 ∧ LoopMet (formatR 0x41 4 1 0 5 0) := ⟨by decide, loop_met _⟩

theorem test_witness_VerifyVerdict : State.reset.len.val ≠ 32 ∧ signer.len.val = 32 ∧
    (signer.readX 0).toNat % Config.order = 0 ∧ (signer.readX 1).toNat % Config.order ≠ 0 := by decide +kernel

theorem test_witness_SignedMessagesVerify : digestZ (bytesBE digestA 32) = .ok digestA ∧ 1 < Config.order ∧
    signS 1 digestA 1 (signR 1).toNat ≠ 0 := by decide +kernel

theorem test_witness_DerEncode : signer.bufCanonical := signer_bufCanonical

theorem test_witness_DerDecode : derDecodeAt [0x30, 0x06, 0x02, 0x01, 0x01, 0x02, 0x01, 0x09] = .ok (1, 9) ∧
    derDecodeAt [] = .error .derLength := by decide +kernel

theorem test_witness_DerRoundTrip : signer.bufCanonical ∧ (0 : XReg) ≠ 15 := ⟨signer_bufCanonical, by decide⟩

theorem test_witness_Base58Encode : (57 : Nat) < 58 ∧ Base58.chr 57 = 0x7A ∧ signer.bufCanonical ∧ signer.len.val ≤ 187 :=
  ⟨by decide, by decide, signer_bufCanonical, by decide +kernel⟩

theorem test_witness_Base58Decode : (say [0x31, 0x7A] []).msg = [0, 57].map Base58.chr ∧
    (∃ c ∈ (say [0x30] []).msg, ∀ v, v < 58 → Base58.chr v ≠ c) := by
  refine ⟨by decide +kernel, 0x30, by decide +kernel, ?_⟩
  decide +kernel

theorem test_witness_Base58RoundTrips : Base58.decode [0x31] = .ok [0x00] := by decide +kernel

theorem test_witness_Base58CheckCommands : signer.bufCanonical ∧ signer.len.val ≤ 183 ∧
    Base58.decode [0x30] = .error .b58Char ∧
    Base58.decode ("3QJmnh".toList.map fun c => BitVec.ofNat 8 c.toNat) = .ok ([] ++ [0x5D, 0xF6, 0xE0, 0xE2]) ∧
    (sha256 (sha256 [])).take 4 = [0x5D, 0xF6, 0xE0, 0xE2] :=
  ⟨signer_bufCanonical, by decide +kernel, by decide +kernel, by decide +kernel, by decide +kernel⟩

theorem test_witness_HashCommands : signer.bufCanonical := signer_bufCanonical

end Sys2Proof.Tests
end

section
/-!
PROOFS. The family 10_state: the bus registers STATUS, CTRL, ECMD and LEN (R34, R36 to R38), the values after reset
(R41), and the invariant of the point registers (R25).
-/

namespace Sys2Proof.Machine

/-! ### A host access as a step

One rule for a read and one for a write of a window word. Apart from `STATUS` they speak of an idle core. -/

theorem step_read {s : State} {off width : Nat} {rest : List HostOp} (h : s.hostOps = .read off width :: rest) :
    step s = .next ({ s with hostOps := rest }.hostRead off width) := by
  rw [step, h]

theorem step_write {s : State} {off width : Nat} {w : Word32} {rest : List HostOp}
    (h : s.hostOps = .write off width w :: rest) :
    step s = .next ({ s with hostOps := rest }.hostWrite off width w) := by
  rw [step, h]

theorem hostRead_idle {s : State} {off : Nat} (ha : busAligned off 32 = true) (hb : s.busy = false) :
    s.hostRead off 32 = { s with reply := .word (s.windowRead off) } := by
  simp [State.hostRead, ha, hb]

/-- `STATUS` is read while a command runs as well (R61). -/
theorem hostRead_status (s : State) : s.hostRead 0x004 32 = { s with reply := .word s.statusWord } := by
  simp [State.hostRead, busAligned, State.windowRead]

theorem hostWrite_idle {s : State} {off : Nat} {w : Word32} (ha : busAligned off 32 = true) (hb : s.busy = false) :
    s.hostWrite off 32 w = { s.windowWrite off w with reply := .done } := by
  simp [State.hostWrite, ha, hb]

theorem step_read_idle {s : State} {off : Nat} {rest : List HostOp} (h : s.hostOps = .read off 32 :: rest)
    (ha : busAligned off 32 = true) (hb : s.busy = false) :
    step s = .next { s with hostOps := rest, reply := .word (s.windowRead off) } := by
  rw [step_read h, hostRead_idle (s := { s with hostOps := rest }) ha hb]
  rfl

theorem step_write_idle {s : State} {off : Nat} {w : Word32} {rest : List HostOp}
    (h : s.hostOps = .write off 32 w :: rest) (ha : busAligned off 32 = true) (hb : s.busy = false) :
    step s = .next { { s with hostOps := rest }.windowWrite off w with reply := .done } := by
  rw [step_write h, hostWrite_idle (s := { s with hostOps := rest }) ha hb]

theorem step_read_status {s : State} {rest : List HostOp} (h : s.hostOps = .read 0x004 32 :: rest) :
    step s = .next { s with hostOps := rest, reply := .word s.statusWord } := by
  rw [step_read h, hostRead_status]
  rfl

/-! ### The register words of the window -/

section
variable (s : State) (w : Word32)

@[simp] theorem windowRead_ctrl : s.windowRead 0x008 = s.ctrlWord := rfl
@[simp] theorem windowRead_ecmd : s.windowRead 0x00C = s.ecmd := rfl
@[simp] theorem windowRead_len : s.windowRead 0x010 = BitVec.ofNat 32 s.len.val := rfl
@[simp] theorem windowWrite_status : s.windowWrite 0x004 w = s.writeStatus w := rfl
@[simp] theorem windowWrite_ctrl : s.windowWrite 0x008 w = s.writeCtrl w := rfl
@[simp] theorem windowWrite_ecmd : s.windowWrite 0x00C w = s := rfl
@[simp] theorem windowWrite_len : s.windowWrite 0x010 w = s.writeLen w := rfl

theorem writeStatus_eq : s.writeStatus w = { s with done := s.done && !w.getLsbD 1 } := by
  rw [State.writeStatus]
  cases w.getLsbD 1 <;> simp

theorem writeCtrl_eq :
    s.writeCtrl w = { s with ie := w.getLsbD 0, err := if w.getLsbD 1 then 0 else s.err } := by
  rw [State.writeCtrl]
  cases w.getLsbD 1 <;> rfl

theorem writeLen_eq : ∃ n : Fin 257, s.writeLen w = { s with len := n } ∧
    (w.toNat ≤ 256 → n.val = w.toNat) ∧ (256 < w.toNat → n = s.len) := by
  unfold State.writeLen
  split
  · exact ⟨_, rfl, fun _ => rfl, fun h => absurd h (by omega)⟩
  · exact ⟨s.len, rfl, fun h => absurd h (by omega), fun _ => rfl⟩

end

theorem testBit_low_flags : ∀ (b d f : Bool) (n : Fin 8),
    (b.toNat + 2 * d.toNat + 4 * f.toNat).testBit n =
      if n.val = 0 then b else if n.val = 1 then d else if n.val = 2 then f else false := by
  decide

/-- The bits of `STATUS`: `ERR` stands above a byte that holds the three flags (R34). -/
theorem statusWord_getLsbD (s : State) {n : Nat} (hn : n < 32) : s.statusWord.getLsbD n =
    if n = 0 then s.busy else if n = 1 then s.done else if n = 2 then decide (s.err ≠ 0)
    else if 8 ≤ n ∧ n < 16 then s.err.getLsbD (n - 8) else false := by
  have hlow : s.busy.toNat + 2 * s.done.toNat + 4 * s.faultFlag.toNat < 2 ^ 8 := by
    have := s.busy.toNat_lt; have := s.done.toNat_lt; have := s.faultFlag.toNat_lt
    omega
  have hbit : s.statusWord.getLsbD n =
      if n < 8 then (s.busy.toNat + 2 * s.done.toNat + 4 * s.faultFlag.toNat).testBit n
      else s.err.getLsbD (n - 8) := by
    rw [State.statusWord, BitVec.getLsbD_ofNat, decide_eq_true hn, Bool.true_and, Nat.add_comm,
      show (256 : Nat) = 2 ^ 8 from rfl, Nat.testBit_two_pow_mul_add _ hlow]
    rfl
  rw [hbit]
  by_cases h8 : n < 8
  · rw [if_pos h8, testBit_low_flags _ _ _ ⟨n, h8⟩, if_neg (c := 8 ≤ n ∧ n < 16) (by omega)]
    simp [State.faultFlag, bne, BEq.beq]
  · rw [if_neg h8, if_neg (by omega), if_neg (by omega), if_neg (by omega)]
    by_cases h16 : n < 16
    · rw [if_pos ⟨by omega, h16⟩]
    · rw [if_neg (by omega), BitVec.getLsbD_of_ge _ _ (by omega)]

theorem ctrlWord_getLsbD (s : State) {n : Nat} (hn : n < 32) :
    s.ctrlWord.getLsbD n = (decide (n = 0) && s.ie) := by
  rw [State.ctrlWord, BitVec.getLsbD_ofNat, decide_eq_true hn, Bool.true_and, Nat.testBit_bool_toNat]

theorem toNat_ofNat_len (s : State) : (BitVec.ofNat 32 s.len.val).toNat = s.len.val := by
  rw [BitVec.toNat_ofNat, Nat.mod_eq_of_lt (by omega)]

/-! ### Point registers (R25) -/

theorem contains_iff_onCurve (x y : Nat) : contains x y = true ↔ OnCurve x y := by
  rw [contains_iff, OnCurve, ← cast_eq_iff]
  push_cast
  ring_nf

theorem Point.valid_iff (q : Point) : q.valid = true ↔ q = .inf ∨ ∃ x y : Word, q = .pt x y ∧
    x.toNat < Config.prime ∧ y.toNat < Config.prime ∧ OnCurve x.toNat y.toNat := by
  cases q with
  | inf => simp [Point.valid]
  | pt x y => simp [Point.valid, contains_iff_onCurve, and_assoc]

theorem pointsValid_of_p_eq {s t : State} (h : t.p = s.p) (hs : s.pointsValid) : t.pointsValid := by
  intro i
  rw [State.readP, h]
  exact hs i

theorem pointsValid_reset : State.reset.pointsValid := by
  intro i
  rw [State.readP_reset]
  rfl

theorem pointsValid_writeP {s : State} {d : PReg} {q : Point} (hs : s.pointsValid) (hq : q.valid = true) :
    (s.writeP d q).pointsValid := by
  intro i
  rw [readP_writeP]
  split
  · exact hq
  · exact hs i

/-- What a command does to the point registers: nothing, or one write by a point-writing command, of a valid value where
the registers were valid. -/
theorem Ends.points {i : Instr} {s t : State} (h : Ends i s (.next t)) :
    t.p = s.p ∨ ∃ d q, writesPoint i = true ∧ (s.pointsValid → q.valid = true) ∧ t.p = (s.writeP d q).p := by
  cases h with
  | p d q hi hq => exact .inr ⟨d, q, hi, hq, rfl⟩
  | _ => exact .inl rfl

theorem Ends.pointsValid {i : Instr} {s t : State} (h : Ends i s (.next t)) (hs : s.pointsValid) : t.pointsValid := by
  obtain hp | ⟨d, q, -, hq, hp⟩ := h.points
  · exact pointsValid_of_p_eq hp hs
  · exact pointsValid_of_p_eq hp (pointsValid_writeP hs (hq hs))

theorem Written.p_eq {s t : State} (h : Written s t) : t.p = s.p := by
  cases h <;> rfl

theorem hostWrite_p (s : State) (off width : Nat) (w : Word32) : (s.hostWrite off width w).p = s.p := by
  obtain ⟨t, r, e, ht⟩ := hostWrite_written s off width w
  rw [e]
  exact ht.p_eq

theorem hostRead_p (s : State) (off width : Nat) : (s.hostRead off width).p = s.p := by
  obtain ⟨r, n, e⟩ := hostRead_eq s off width
  rw [e]

/-- No word of the window shows a point register (R25, R52). -/
theorem windowRead_with_p (s : State) (off : Nat) (p : Vector Point 4) :
    { s with p := p }.windowRead off = s.windowRead off := rfl

theorem hostRead_reply_with_p (s : State) (off width : Nat) (p : Vector Point 4) :
    ({ s with p := p }.hostRead off width).reply = (s.hostRead off width).reply := by
  simp only [State.hostRead, windowRead_with_p, apply_ite State.reply]

section
variable [Fact Config.prime.Prime]

theorem coreStep_pointsValid {s t : State} (hs : s.pointsValid) (h : coreStep s = .next t) : t.pointsValid := by
  obtain ⟨-, i, -, -, he⟩ | ⟨-, e⟩ | ⟨-, e⟩ := coreStep_cases s
  · rw [h] at he
    exact he.pointsValid hs
  · cases e.symm.trans h
    exact hs
  · cases e.symm.trans h
    exact hs

theorem step_pointsValid {s t : State} (hs : s.pointsValid) (h : step s = .next t) : t.pointsValid := by
  obtain ⟨ops, e⟩ | ⟨ops, r, n, e⟩ | ⟨ops, u, r, e, hu⟩ | ⟨ops, e⟩ := step_cases s
  · exact coreStep_pointsValid (s := { s with hostOps := ops }) hs (e.symm.trans h)
  · cases e.symm.trans h
    exact hs
  · cases e.symm.trans h
    exact pointsValid_of_p_eq hu.p_eq hs
  · cases e.symm.trans h
    exact pointsValid_reset

theorem exec_p_eq {i : Instr} {s t : State} (hi : writesPoint i = false) (h : exec i s = .next t) : t.p = s.p := by
  have he : Ends i s (.next t) := h ▸ exec_ends i s
  obtain hp | ⟨_, _, hw, -⟩ := he.points
  · exact hp
  · rw [hi] at hw
    cases hw

end

/-! ### The obligations -/

/-- Settles O23: `exec_ends` and `step_cases` list what a step can do; the only writes of a point register are those of
the point-writing commands, and each writes a valid value. -/
theorem pointsStayOnTheCurve : Obligations.PointsStayOnTheCurve := by
  have : Fact Config.prime.Prime := ⟨prime_prime⟩
  exact ⟨pointsValid_reset, fun _ _ => step_pointsValid, fun s => forall_congr' fun i => (s.readP i).valid_iff,
    fun s off width w => ⟨hostWrite_p s off width w, hostRead_p s off width⟩, hostRead_reply_with_p,
    fun _ _ _ => exec_p_eq⟩

/-- Settles O8: the read by the bits of the word, the write by `writeStatus_eq`. -/
theorem statusRegister : Obligations.StatusRegister := by
  refine ⟨fun s rest h => ⟨s.statusWord, step_read_status h, fun _ => statusWord_getLsbD s⟩,
    fun s w rest h hb => ?_⟩
  rw [step_write_idle h rfl hb, windowWrite_status, writeStatus_eq]

/-- Settles O9: the read by the bits of the word, the write by `writeCtrl_eq`. -/
theorem controlRegister : Obligations.ControlRegister := by
  refine ⟨fun s rest h hb => ⟨s.ctrlWord, by rw [step_read_idle h rfl hb, windowRead_ctrl], fun _ => ctrlWord_getLsbD s⟩,
    fun s w rest h hb => ?_⟩
  rw [step_write_idle h rfl hb, windowWrite_ctrl, writeCtrl_eq]

/-- Settles O10: one access rule per clause; a write of `LEN` by `writeLen_eq`. -/
theorem lengthAndFaultRecord : Obligations.LengthAndFaultRecord := by
  refine ⟨fun s rest h hb => ?_, fun s w rest h hb => ?_,
    fun s rest h hb => ⟨BitVec.ofNat 32 s.len.val, ?_, toNat_ofNat_len s⟩, fun s w rest h hb => ?_, rfl⟩
  · rw [step_read_idle h rfl hb, windowRead_ecmd]
  · rw [step_write_idle h rfl hb, windowWrite_ecmd]
  · rw [step_read_idle h rfl hb, windowRead_len]
  · obtain ⟨n, e, hle, hgt⟩ := writeLen_eq { s with hostOps := rest } w
    exact ⟨n, by rw [step_write_idle h rfl hb, windowWrite_len, e], hle, hgt⟩

/-- Settles O15: the registers by their laws at reset, the other fields as `State.reset` sets them. -/
theorem resetValues : Obligations.ResetValues :=
  ⟨State.readX_reset, State.readP_reset, fun _ => rfl, rfl, rfl, rfl, rfl, rfl, rfl, rfl⟩

end Sys2Proof.Machine
end

section
/-!
PROOFS. The family 20_memory: the words of the X registers and of `BUF` in the bus window (R53, R54), and the host's
accesses while a command runs (R61).
-/

namespace Sys2Proof.Machine

/-! ### A word of a register, bit by bit (R53) -/

theorem getWord_getLsbD (v : Word) (j : Nat) {n : Nat} (hn : n < 32) :
    (getWord v j).getLsbD n = v.getLsbD (32 * j + n) := by
  rw [getWord, BitVec.getLsbD_ofNat, decide_eq_true hn, Bool.true_and, Nat.testBit_div_two_pow, Nat.add_comm]
  rfl

theorem putWord_getLsbD (v : Word) (j : Nat) (w : Word32) {n : Nat} (hn : n < 256) : (putWord v j w).getLsbD n =
    if 32 * j ≤ n ∧ n < 32 * j + 32 then w.getLsbD (n - 32 * j) else v.getLsbD n := by
  have hlow : v.toNat % 2 ^ (32 * j) < 2 ^ (32 * j) := Nat.mod_lt _ (Nat.two_pow_pos _)
  have hsplit : v.toNat / 2 ^ (32 * j + 32) * 2 ^ (32 * j + 32) + w.toNat * 2 ^ (32 * j) + v.toNat % 2 ^ (32 * j) =
      2 ^ (32 * j) * (2 ^ 32 * (v.toNat / 2 ^ (32 * j + 32)) + w.toNat) + v.toNat % 2 ^ (32 * j) := by
    rw [Nat.pow_add]
    ring
  rw [putWord, hsplit, BitVec.getLsbD_ofNat, decide_eq_true hn, Bool.true_and, Nat.testBit_two_pow_mul_add _ hlow]
  by_cases h1 : n < 32 * j
  · rw [if_pos h1, if_neg (by omega), Nat.testBit_mod_two_pow, decide_eq_true h1, Bool.true_and]
    rfl
  rw [if_neg h1, Nat.testBit_two_pow_mul_add _ w.isLt]
  by_cases h2 : n < 32 * j + 32
  · rw [if_pos (by omega), if_pos (by omega)]
    rfl
  · rw [if_neg (by omega), if_neg (by omega), Nat.testBit_div_two_pow,
      show n - 32 * j - 32 + (32 * j + 32) = n by omega]
    rfl

/-! ### A string of bytes, little-endian, bit by bit (R54) -/

theorem intLE_testBit (s : Bytes) (k : Nat) {n : Nat} (hn : n < 8) :
    (intLE s).testBit (8 * k + n) = (s.getD k 0).getLsbD n := by
  induction s generalizing k with
  | nil => simp [intLE]
  | cons b s ih =>
    rw [intLE, Nat.add_comm b.toNat, show (256 : Nat) = 2 ^ 8 from rfl, Nat.testBit_two_pow_mul_add _ b.isLt]
    cases k with
    | zero => rw [if_pos (by omega), Nat.mul_zero, Nat.zero_add]; rfl
    | succ k => rw [if_neg (by omega), show 8 * (k + 1) + n - 8 = 8 * k + n by omega, ih, List.getD_cons_succ]

theorem bytesLE_getD_getLsbD (v : Nat) {m k n : Nat} (hk : k < m) (hn : n < 8) :
    ((bytesLE v m).getD k 0).getLsbD n = v.testBit (8 * k + n) := by
  rw [← intLE_testBit _ _ hn, intLE_bytesLE, show (256 : Nat) = 2 ^ 8 from rfl, ← Nat.pow_mul,
    Nat.testBit_mod_two_pow, decide_eq_true (by omega), Bool.true_and]

/-! ### The words of `X` and of `BUF` in the map (R52) -/

section
variable (s : State) (w : Word32)

theorem windowReg_eq (i : XReg) {j : Nat} (hj : j < 8) : windowReg (0x200 + 32 * i + 4 * j) = i := by
  apply Fin.ext
  show (0x200 + 32 * i.val + 4 * j - 0x200) / 32 % 16 = i.val
  omega

theorem windowWord_eq (i : XReg) {j : Nat} (hj : j < 8) : windowWord (0x200 + 32 * i + 4 * j) = j := by
  rw [windowWord]
  omega

theorem windowRead_reg (i : XReg) {j : Nat} (hj : j < 8) :
    s.windowRead (0x200 + 32 * i + 4 * j) = getWord (s.readX i) j := by
  rw [State.windowRead, if_neg (by omega), if_neg (by omega), if_neg (by omega), if_neg (by omega),
    if_neg (by omega), if_pos (by omega), windowReg_eq i hj, windowWord_eq i hj]

theorem windowWrite_reg (i : XReg) {j : Nat} (hj : j < 8) :
    s.windowWrite (0x200 + 32 * i + 4 * j) w = s.writeX i (putWord (s.readX i) j w) := by
  rw [State.windowWrite, if_neg (by omega), if_neg (by omega), if_neg (by omega), if_neg (by omega),
    if_pos (by omega), windowReg_eq i hj, windowWord_eq i hj]

theorem windowRead_buf {m : Nat} (hm : m < 64) :
    s.windowRead (0x400 + 4 * m) = BitVec.ofNat 32 (intLE (Memory.readBytes s.buf (4 * m) 4)) := by
  rw [State.windowRead, if_neg (by omega), if_neg (by omega), if_neg (by omega), if_neg (by omega),
    if_neg (by omega), if_neg (by omega), if_pos (by omega), Nat.add_sub_cancel_left]

theorem windowWrite_buf {m : Nat} (hm : m < 64) :
    s.windowWrite (0x400 + 4 * m) w = { s with buf := Memory.writeBytes s.buf (4 * m) (bytesLE w.toNat 4) } := by
  rw [State.windowWrite, if_neg (by omega), if_neg (by omega), if_neg (by omega), if_neg (by omega),
    if_neg (by omega), if_pos (by omega), Nat.add_sub_cancel_left]

theorem windowRead_buf_getLsbD {m k n : Nat} (hm : m < 64) (hk : k < 4) (hn : n < 8) :
    (s.windowRead (0x400 + 4 * m)).getLsbD (8 * k + n) = (s.byte (4 * m + k)).getLsbD n := by
  rw [windowRead_buf s hm, BitVec.getLsbD_ofNat, decide_eq_true (by omega), Bool.true_and, intLE_testBit _ _ hn,
    Memory.readBytes_getD _ _ _ _ hk]
  rfl

theorem windowWrite_buf_byte (hw : s.bufCanonical) {m : Nat} (hm : m < 64) (a : Nat) :
    (s.windowWrite (0x400 + 4 * m) w).byte a =
      if 4 * m ≤ a ∧ a < 4 * m + 4 then (bytesLE w.toNat 4).getD (a - 4 * m) 0 else s.byte a := by
  rw [windowWrite_buf s w hm]
  exact Memory.readByte_writeBytes hw (by rw [bytesLE_length]; omega) a

end

theorem busAligned_iff (off width : Nat) :
    busAligned off width = true ↔ width = 32 ∧ off % 4 = 0 ∧ off < 0x600 := by
  simp [busAligned, and_assoc]

/-! ### Accesses while a command runs (R61) -/

theorem statusWord_running {s : State} (hb : s.busy = true) (hok : s.statusOk) : s.statusWord = 1 := by
  obtain ⟨hdone, herr, -⟩ := hok
  have hd : s.done = false := by simpa [hb] using hdone
  rw [State.statusWord, State.faultFlag, hb, hd, herr hb]
  rfl

theorem hostRead_reply {s : State} {off width : Nat} (ha : busAligned off width = true) :
    ∃ v, (s.hostRead off width).reply = .word v ∧ (off = 0x004 → v = s.statusWord) := by
  obtain ⟨rfl, -, -⟩ := (busAligned_iff off width).1 ha
  by_cases hoff : off = 0x004
  · exact ⟨s.statusWord, by rw [hoff, hostRead_status], fun _ => rfl⟩
  · rw [State.hostRead, ha]
    cases s.busy
    · exact ⟨s.windowRead off, rfl, fun h => absurd h hoff⟩
    · exact ⟨Config.busyRead s.draws, by simp [hoff], fun h => absurd h hoff⟩

theorem hostWrite_busy {s : State} (hb : s.busy = true) (off width : Nat) (w : Word32) :
    ∃ r, s.hostWrite off width w = { s with reply := r } := by
  rw [State.hostWrite, hb]
  cases busAligned off width
  · exact ⟨.busError, rfl⟩
  · exact ⟨.done, rfl⟩

/-! ### The obligations -/

/-- Settles O11: the access reaches word `j` of `X[i]` (`windowRead_reg`, `windowWrite_reg`), and its bits are those of
`getWord` and `putWord`. -/
theorem registerWindow : Obligations.RegisterWindow := by
  have haligned (i : XReg) {j : Nat} (hj : j < 8) : busAligned (0x200 + 32 * i + 4 * j) 32 = true :=
    (busAligned_iff _ _).2 ⟨rfl, by omega, by omega⟩
  refine ⟨fun s i j rest hj h hb => ⟨getWord (s.readX i) j, ?_, fun _ => getWord_getLsbD _ _⟩,
    fun s i j w rest hj h hb => ⟨{ s.writeX i (putWord (s.readX i) j w) with hostOps := rest, reply := .done },
      ?_, rfl, fun k hk => ?_, fun n hn => ?_⟩⟩
  · rw [step_read_idle h (haligned i hj) hb, windowRead_reg s i hj]
  · rw [step_write_idle h (haligned i hj) hb, windowWrite_reg _ w i hj]
    rfl
  · exact State.readX_writeX_ne s i k _ (by simpa using hk)
  · rw [← putWord_getLsbD _ _ _ hn]
    exact congrArg (·.getLsbD n) (State.readX_writeX_same s i _)

/-- Settles O12: the read by the bits of the little-endian word, the write by what it leaves at each address of a
canonical buffer (`windowWrite_buf_byte`). -/
theorem bufferWindow : Obligations.BufferWindow := by
  have haligned {m : Nat} (hm : m < 64) : busAligned (0x400 + 4 * m) 32 = true :=
    (busAligned_iff _ _).2 ⟨rfl, by omega, by omega⟩
  refine ⟨fun s m rest hm h hb =>
      ⟨s.windowRead (0x400 + 4 * m), step_read_idle h (haligned hm) hb, fun _ _ => windowRead_buf_getLsbD s hm⟩,
    fun s m w rest hw hm h hb => ?_⟩
  have hbyte := windowWrite_buf_byte { s with hostOps := rest } w hw hm
  refine ⟨_, step_write_idle h (haligned hm) hb, ?_, fun a ha => (hbyte a).trans (if_neg ha), fun k n hk hn => ?_⟩
  · rw [windowWrite_buf _ w hm]
  · refine (congrArg (·.getLsbD n) ((hbyte (4 * m + k)).trans (if_pos (by omega)))).trans ?_
    rw [Nat.add_sub_cancel_left, bytesLE_getD_getLsbD _ hk hn]
    rfl

/-- Settles O14: `hostRead_eq` and `hostWrite_busy` say that nothing in the core changes, `hostRead_reply` what a read
gets. -/
theorem accessesWhileBusy : Obligations.AccessesWhileBusy := by
  refine fun s off width rest hb hok => ⟨fun h => ?_, fun w h => ?_⟩
  · obtain ⟨r, n, e⟩ := hostRead_eq { s with hostOps := rest } off width
    refine ⟨r, n, by rw [step_read h, e], fun hwidth hoff hlt => ?_⟩
    obtain ⟨v, hv, hstatus⟩ :=
      hostRead_reply (s := { s with hostOps := rest }) ((busAligned_iff off width).2 ⟨hwidth, hoff, hlt⟩)
    rw [e] at hv
    refine ⟨v, hv, fun h4 => ?_⟩
    rw [hstatus h4, statusWord_running (s := { s with hostOps := rest }) hb hok]
    rfl
  · obtain ⟨r, e⟩ := hostWrite_busy (s := { s with hostOps := rest }) hb off width w
    exact ⟨r, by rw [step_write h, e]⟩

end Sys2Proof.Machine
end

section
/-!
PROOFS. The family 30_encoding: the worked encodings and the illegal words (R80).
-/

namespace Sys2Proof.Machine

/-- Settles O3: `decode`, `encode` and `assembly` are computable, and each clause evaluates one of them at a literal. The
seven rows are R80's worked words (decoding, encoding, assembly); the last six clauses are its illegal words. -/
theorem workedEncodings : Obligations.WorkedEncodings :=
  ⟨⟨rfl, rfl, rfl⟩, ⟨rfl, rfl, rfl⟩, ⟨rfl, rfl, rfl⟩, ⟨rfl, rfl, rfl⟩, ⟨rfl, rfl, rfl⟩, ⟨rfl, rfl, rfl⟩, ⟨rfl, rfl, rfl⟩,
    rfl, rfl, rfl, rfl, rfl, rfl⟩

end Sys2Proof.Machine
end

section
/-!
PROOFS. The family 40_move_system: words of the formats R, I and M and what `decode` reads from them (R72 to R74), the
moves (R100 to R104, R109) and the buffer moves (R105 to R108).
-/

namespace Sys2Proof.Machine

open Sys2Proof.Laws.Opcode (formatR_opcode formatI_opcode formatM_opcode)

/-! ### The checks of the decoder (R77) -/

theorem zeros_singleton {w : Word32} {hi lo : Nat} {r : Except DecodeError Instr} (h : bits w hi lo = 0) :
    zeros w [(hi, lo)] r = r :=
  if_pos (by simp [h])

theorem ranged_of_wellFormed {i : Instr} (h : i.wellFormed = true) : ranged i = .ok i := if_pos h

theorem ranged_of_not_wellFormed {i : Instr} (h : i.wellFormed = false) : ranged i = .error .operandRange :=
  if_neg (by simp [h])

/-! ### The fields of a word of format R without `rs2`, `rs3` and flags (R72) -/

section
variable {op : Nat} (hop : op < 256) (rd rs1 : XReg)
include hop

theorem xField_formatR_rd (r : Nat) : xField (formatR op rd r 0 0 0) 8 = rd := by
  apply Fin.ext
  simp only [xField, Fin.ofNat, bits, formatR, BitVec.toNat_ofNat]
  omega

theorem xField_formatR_rs1 : xField (formatR op rd rs1 0 0 0) 12 = rs1 := by
  apply Fin.ext
  simp only [xField, Fin.ofNat, bits, formatR, BitVec.toNat_ofNat]
  omega

theorem bits_formatR_above_rs1 : bits (formatR op rd rs1 0 0 0) 31 16 = 0 := by
  simp only [bits, formatR, BitVec.toNat_ofNat]
  omega

theorem bits_formatR_above_rd : bits (formatR op rd 0 0 0 0) 31 12 = 0 := by
  simp only [bits, formatR, BitVec.toNat_ofNat]
  omega

end

/-! ### The fields of a word of format I (R73) -/

section
variable {op : Nat} (hop : op < 256) (rd : XReg) (imm16 : BitVec 16)
include hop

theorem xField_formatI : xField (formatI op rd imm16.toNat) 8 = rd := by
  apply Fin.ext
  simp only [xField, Fin.ofNat, bits, formatI, BitVec.toNat_ofNat]
  omega

theorem imm16Field_formatI {r : Nat} (hr : r < 16) : imm16Field (formatI op r imm16.toNat) = imm16 := by
  apply BitVec.eq_of_toNat_eq
  simp only [imm16Field, bits, formatI, BitVec.toNat_ofNat]
  omega

theorem bits_formatI_above_rd : bits (formatI op rd imm16.toNat) 15 12 = 0 := by
  simp only [bits, formatI, BitVec.toNat_ofNat]
  omega

theorem bits_formatI_below_imm16 : bits (formatI op 0 imm16.toNat) 15 8 = 0 := by
  simp only [bits, formatI, BitVec.toNat_ofNat]
  omega

end

/-! ### The fields of a word of format M (R74) -/

section
variable {op : Nat} (hop : op < 256) (rd : XReg) (off : BitVec 8) (len : BitVec 6)
include hop

theorem xField_formatM : xField (formatM op rd len.toNat off.toNat) 8 = rd := by
  apply Fin.ext
  simp only [xField, Fin.ofNat, bits, formatM, BitVec.toNat_ofNat]
  omega

theorem lenField_formatM : lenField (formatM op rd len.toNat off.toNat) = len := by
  apply BitVec.eq_of_toNat_eq
  simp only [lenField, bits, formatM, BitVec.toNat_ofNat]
  omega

theorem offField_formatM : offField (formatM op rd len.toNat off.toNat) = off := by
  apply BitVec.eq_of_toNat_eq
  simp only [offField, bits, formatM, BitVec.toNat_ofNat]
  omega

theorem bits_formatM_unused : bits (formatM op rd len.toNat off.toNat) 23 18 = 0 := by
  simp only [bits, formatM, BitVec.toNat_ofNat]
  omega

end

/-! ### The decoder on the words of the moves -/

section
variable (rd rs1 : XReg) (imm16 : BitVec 16) (off : BitVec 8) (len : BitVec 6)

theorem decode_li : decode (formatI 0x01 rd imm16.toNat) = .ok (.li rd imm16) := by
  have hop : 0x01 < 256 := by decide
  simp only [decode, formatI_opcode _ _ _ hop, zeros_singleton (bits_formatI_above_rd hop _ _),
    xField_formatI hop, imm16Field_formatI hop _ rd.isLt]

theorem decode_ldc : decode (formatI 0x02 rd imm16.toNat) = ranged (.ldc rd imm16) := by
  have hop : 0x02 < 256 := by decide
  simp only [decode, formatI_opcode _ _ _ hop, zeros_singleton (bits_formatI_above_rd hop _ _),
    xField_formatI hop, imm16Field_formatI hop _ rd.isLt]

theorem decode_mov : decode (formatR 0x03 rd rs1 0 0 0) = .ok (.mov rd rs1) := by
  have hop : 0x03 < 256 := by decide
  simp only [decode, formatR_opcode _ _ _ _ _ _ hop, zeros_singleton (bits_formatR_above_rs1 hop _ _),
    xField_formatR_rd hop, xField_formatR_rs1 hop]

theorem decode_setlen : decode (formatI 0x04 0 imm16.toNat) = ranged (.setlen imm16) := by
  have hop : 0x04 < 256 := by decide
  simp only [decode, formatI_opcode _ _ _ hop, zeros_singleton (bits_formatI_below_imm16 hop _),
    imm16Field_formatI hop imm16 (Nat.zero_lt_succ 15)]

theorem decode_getlen : decode (formatR 0x05 rd 0 0 0 0) = .ok (.getlen rd) := by
  have hop : 0x05 < 256 := by decide
  simp only [decode, formatR_opcode _ _ _ _ _ _ hop, zeros_singleton (bits_formatR_above_rd hop _),
    xField_formatR_rd hop]

theorem decode_ldbe : decode (formatM 0x06 rd len.toNat off.toNat) = ranged (.ldbe rd off len) := by
  have hop : 0x06 < 256 := by decide
  simp only [decode, formatM_opcode _ _ _ _ hop, zeros_singleton (bits_formatM_unused hop _ _ _),
    xField_formatM hop, offField_formatM hop, lenField_formatM hop]

theorem decode_ldle : decode (formatM 0x07 rd len.toNat off.toNat) = ranged (.ldle rd off len) := by
  have hop : 0x07 < 256 := by decide
  simp only [decode, formatM_opcode _ _ _ _ hop, zeros_singleton (bits_formatM_unused hop _ _ _),
    xField_formatM hop, offField_formatM hop, lenField_formatM hop]

theorem decode_stbe : decode (formatM 0x08 rd len.toNat off.toNat) = ranged (.stbe rd off len) := by
  have hop : 0x08 < 256 := by decide
  simp only [decode, formatM_opcode _ _ _ _ hop, zeros_singleton (bits_formatM_unused hop _ _ _),
    xField_formatM hop, offField_formatM hop, lenField_formatM hop]

end

/-! ### Sums and strings (R18) -/

/-- `int_be(s)` as the sum of R18. -/
theorem intBE_eq_sum (s : Bytes) :
    intBE s = ∑ i ∈ Finset.range s.length, (s.getD i 0).toNat * 256 ^ (s.length - 1 - i) := by
  induction s with
  | nil => rfl
  | cons b s ih =>
    rw [intBE_cons, ih, List.length_cons, Finset.sum_range_succ', Nat.add_comm]
    refine congrArg₂ _ (Finset.sum_congr rfl fun i _ => ?_) rfl
    rw [List.getD_cons_succ, show s.length + 1 - 1 - (i + 1) = s.length - 1 - i by omega]

/-- `int_le(s)` as the sum of R18. -/
theorem intLE_eq_sum (s : Bytes) : intLE s = ∑ i ∈ Finset.range s.length, (s.getD i 0).toNat * 256 ^ i := by
  induction s with
  | nil => rfl
  | cons b s ih =>
    rw [intLE, ih, List.length_cons, Finset.sum_range_succ', Nat.add_comm, Finset.mul_sum]
    refine congrArg₂ _ (Finset.sum_congr rfl fun i _ => ?_) (Nat.mul_one _).symm
    rw [List.getD_cons_succ, Nat.pow_succ]
    ring

/-- `bytes_be(v, n)` by position: byte `i` has weight `256^(n-1-i)` (R18). -/
theorem bytesBE_eq_map (v n : Nat) :
    bytesBE v n = (List.range n).map fun i => BitVec.ofNat 8 (v / 256 ^ (n - 1 - i)) := by
  induction n with
  | zero => rfl
  | succ n ih =>
    rw [bytesBE, ih, List.range_succ_eq_map, List.map_cons, List.map_map]
    refine congrArg (List.cons _) (List.map_congr_left fun i _ => ?_)
    show _ = BitVec.ofNat 8 (v / 256 ^ (n + 1 - 1 - (i + 1)))
    rw [show n + 1 - 1 - (i + 1) = n - 1 - i by omega]

/-- The integer of at most 32 bytes fits a register. -/
theorem toNat_word_of_lt {v n : Nat} (hv : v < 256 ^ n) (hn : n ≤ 32) : (word v).toNat = v :=
  Nat.mod_eq_of_lt (hv.trans_le (Nat.pow_le_pow_right (by decide) hn))

section
variable (s : State)

theorem intBE_window (k n : Nat) : intBE (Memory.readBytes s.buf k n) =
    ∑ i ∈ Finset.range n, (s.byte (k + i)).toNat * 256 ^ (n - 1 - i) := by
  rw [intBE_eq_sum, Memory.readBytes_length]
  refine Finset.sum_congr rfl fun i hi => ?_
  rw [Memory.readBytes_getD _ _ _ _ (Finset.mem_range.1 hi), State.byte]

theorem intLE_window (k n : Nat) : intLE (Memory.readBytes s.buf k n) =
    ∑ i ∈ Finset.range n, (s.byte (k + i)).toNat * 256 ^ i := by
  rw [intLE_eq_sum, Memory.readBytes_length]
  refine Finset.sum_congr rfl fun i hi => ?_
  rw [Memory.readBytes_getD _ _ _ _ (Finset.mem_range.1 hi), State.byte]

/-! ### What the shared ends of the moves leave -/

theorem finish_writesNothing : s.WritesNothing s.complete where
  toCompleted := complete_completed s
  x := fun _ _ => rfl
  p := fun _ _ => rfl
  bytes := fun _ _ => rfl
  len := rfl

theorem finishX_writesX (rd : XReg) {v : Word} {n : Nat} (h : v.toNat = n) :
    ∃ t, finishX s rd v = .next t ∧ s.WritesX t rd n :=
  ⟨_, finishX_eq s rd v, h ▸ writeX_complete s rd v⟩

theorem writeLen_complete (n : Fin 257) : s.WritesLen ({ s with len := n } : State).complete n.val where
  toCompleted := { complete_completed ({ s with len := n } : State) with }
  len := rfl
  x := fun _ _ => rfl
  p := fun _ _ => rfl
  bytes := fun _ _ => rfl

theorem writeBytes_complete (hw : s.bufCanonical) {k : Nat} {bs : Bytes} (h : k + bs.length ≤ 256) :
    s.WritesBytes ({ s with buf := Memory.writeBytes s.buf k bs } : State).complete k bs where
  toCompleted := { complete_completed ({ s with buf := Memory.writeBytes s.buf k bs } : State) with }
  stored := fun i hi => (Memory.readByte_writeBytes hw h _).trans <| by
    rw [if_pos (by omega), Nat.add_sub_cancel_left]
  x := fun _ _ => rfl
  p := fun _ _ => rfl
  bytes := fun a ha => (Memory.readByte_writeBytes hw h a).trans (if_neg ha)
  len := rfl

end

/-! ### The moves -/

/-- `CONST[0..6)` as integers (R102). -/
theorem constant_eq {n : Nat} (h : n ≤ 5) : ∃ v, constant n = some v ∧
    v.toNat = [Config.prime, Config.order, Config.gx, Config.gy, Config.curveA, Config.curveB].getD n 0 := by
  interval_cases n <;> exact ⟨_, rfl, rfl⟩

theorem toNat_immediate (imm16 : BitVec 16) : (immediate imm16).toNat = imm16.toNat := by
  rw [immediate, BitVec.toNat_setWidth, Nat.mod_eq_of_lt (by omega)]

theorem toNat_word_len (s : State) : (word s.len.val).toNat = s.len.val :=
  toNat_word_of_lt (n := 2) (by omega) (by decide)

section
variable (s : State) (rd : XReg) (imm16 : BitVec 16)

theorem exec_ldc_writesX (h : imm16.toNat ≤ 5) : ∃ t, exec (.ldc rd imm16) s = .next t ∧ s.WritesX t rd
    ([Config.prime, Config.order, Config.gx, Config.gy, Config.curveA, Config.curveB].getD imm16.toNat 0) := by
  obtain ⟨v, hc, hv⟩ := constant_eq h
  rw [exec, execLdc, hc]
  exact finishX_writesX s rd hv

theorem exec_setlen_writesLen (h : imm16.toNat ≤ 256) :
    ∃ t, exec (.setlen imm16) s = .next t ∧ s.WritesLen t imm16.toNat := by
  rw [exec, execSetlen, dif_pos h, finish_eq]
  exact ⟨_, rfl, writeLen_complete s _⟩

/-! ### The buffer moves -/

variable {off : BitVec 8} {len : BitVec 6}

/-- A load that writes the value `f` gives the bytes of the window: `f` fits a register (R105 to R107). -/
theorem withWindow_writesX {f : Bytes → Nat} (hf : ∀ bs, f bs < 256 ^ bs.length) (hl : len.toNat ≤ 32) :
    ∃ t, withWindow s off len (fun bs => finishX s rd (word (f bs))) = .next t ∧
      if off.toNat + len.toNat ≤ 256 then s.WritesX t rd (f (Memory.readBytes s.buf off.toNat len.toNat))
      else s.Faulted t .bufBounds := by
  rw [withWindow_eq, if_neg (by omega)]
  split
  · exact finishX_writesX s rd
      (toNat_word_of_lt (n := len.toNat) (by simpa using hf (Memory.readBytes s.buf off.toNat len.toNat)) hl)
  · exact ⟨_, rfl, takeFault_faulted s _⟩

/-- STBE with a legal byte count: the two checks in the order of R108, then the store. -/
theorem execStbe_eq (hl : len.toNat ≤ 32) : execStbe rd off len s =
    if 256 < off.toNat + len.toNat then .next (s.takeFault .bufBounds)
    else if 256 ^ len.toNat ≤ s.xNat rd then .next (s.takeFault .encOverflow)
    else .next ({ s with buf := Memory.writeBytes s.buf off.toNat (bytesBE (s.xNat rd) len.toNat) } : State).complete := by
  rw [execStbe, if_neg (by omega), State.memWrite, bytesBE_length]
  by_cases h : off.toNat + len.toNat ≤ 256
  · rw [if_pos h, if_neg (by omega)]
    rfl
  · rw [if_neg h, if_pos (by omega)]
    rfl

end

/-! ### The obligations -/

/-- Settles O27: each word by the lemma of `decode` for its command, each command by the lemma of the operation it
ends with. -/
theorem moveCommands : Obligations.MoveCommands := by
  intro s rd rs1 imm16
  have hldc : (Instr.ldc rd imm16).wellFormed = decide (imm16.toNat ≤ 5) := rfl
  have hsetlen : (Instr.setlen imm16).wellFormed = decide (imm16.toNat ≤ 256) := rfl
  refine ⟨⟨rfl, _, rfl, finish_writesNothing s⟩, ⟨decode_li rd imm16, finishX_writesX s rd (toNat_immediate imm16)⟩,
    fun h => ⟨?_, exec_ldc_writesX s rd imm16 h⟩, fun h => ?_, ⟨decode_mov rd rs1, finishX_writesX s rd rfl⟩,
    fun h => ⟨?_, exec_setlen_writesLen s imm16 h⟩, fun h => ?_,
    ⟨decode_getlen rd, finishX_writesX s rd (toNat_word_len s)⟩⟩
  · rw [decode_ldc, ranged_of_wellFormed (hldc.trans (decide_eq_true h))]
  · rw [decode_ldc, ranged_of_not_wellFormed (hldc.trans (decide_eq_false (by omega)))]
  · rw [decode_setlen, ranged_of_wellFormed (hsetlen.trans (decide_eq_true h))]
  · rw [decode_setlen, ranged_of_not_wellFormed (hsetlen.trans (decide_eq_false (by omega)))]

/-- Settles O28: both loads are `withWindow_writesX`, and the value of the window is the sum of its weighted bytes. -/
theorem bufferLoads : Obligations.BufferLoads := by
  intro s rd off len hl
  have hwf : decide (len.toNat ≤ 32) = true := decide_eq_true hl
  refine ⟨⟨(decode_ldbe rd off len).trans (ranged_of_wellFormed hwf), ?_⟩,
    (decode_ldle rd off len).trans (ranged_of_wellFormed hwf), ?_⟩
  · rw [← intBE_window]
    exact withWindow_writesX s rd intBE_lt hl
  · rw [← intLE_window]
    exact withWindow_writesX s rd intLE_lt hl

/-- Settles O29: `execStbe_eq` gives the checks in order, `writeBytes_complete` the store in a canonical buffer, and
`bytesBE_eq_map` its bytes by position; a byte count above 32 fails the range check of `decode`. -/
theorem bufferStore : Obligations.BufferStore := by
  refine ⟨fun s rd off len hw hl => ⟨?_, ?_⟩, fun rd off len op hop hl => ?_⟩
  · exact (decode_stbe rd off len).trans (ranged_of_wellFormed (decide_eq_true hl))
  · rw [← bytesBE_eq_map, exec, execStbe_eq s rd hl]
    split
    · exact ⟨_, rfl, takeFault_faulted s _⟩
    split
    · exact ⟨_, rfl, by rw [if_pos ‹_›]; exact takeFault_faulted s _⟩
    · exact ⟨_, rfl, by rw [if_neg ‹_›]; exact writeBytes_complete s hw (by rw [bytesBE_length]; omega)⟩
  · have hwf : decide (len.toNat ≤ 32) = false := decide_eq_false (by omega)
    simp only [List.mem_cons, List.not_mem_nil, or_false] at hop
    obtain rfl | rfl | rfl := hop
    · exact (decode_ldbe rd off len).trans (ranged_of_not_wellFormed hwf)
    · exact (decode_ldle rd off len).trans (ranged_of_not_wellFormed hwf)
    · exact (decode_stbe rd off len).trans (ranged_of_not_wellFormed hwf)

end Sys2Proof.Machine
end

section
/-!
PROOFS. The family 41_field: words of format R with a second source and what `decode` reads from them (R72), the
field functions as integers and residues modulo `PRIME` (R120 to R133), and the field commands (R121 to R131).
-/

namespace Sys2Proof.Machine

open Sys2Proof.Laws.Opcode (formatR_opcode)
open Sys2Proof.Config (prime)

/-! ### Words of format R as rows of the decoder (R72, R76)

What a row of `decode` does with the word of its own command: the opcode selects the row, and the fields are read
back. -/

theorem zeros_pair {w : Word32} {hi lo hi' lo' : Nat} {r : Except DecodeError Instr} (h : bits w hi lo = 0)
    (h' : bits w hi' lo' = 0) : zeros w [(hi, lo), (hi', lo')] r = r :=
  if_pos (by simp [h, h'])

section
variable {op : Nat} (hop : op < 256) (rd rs1 rs2 : XReg) (fl : Nat)
include hop

theorem xField_formatR_dest : xField (formatR op rd rs1 rs2 0 fl) 8 = rd := by
  apply Fin.ext
  simp only [xField, Fin.ofNat, bits, formatR, BitVec.toNat_ofNat]
  omega

theorem xField_formatR_source1 : xField (formatR op rd rs1 rs2 0 fl) 12 = rs1 := by
  apply Fin.ext
  simp only [xField, Fin.ofNat, bits, formatR, BitVec.toNat_ofNat]
  omega

theorem xField_formatR_source2 : xField (formatR op rd rs1 rs2 0 fl) 16 = rs2 := by
  apply Fin.ext
  simp only [xField, Fin.ofNat, bits, formatR, BitVec.toNat_ofNat]
  omega

theorem bits_formatR_rs3 : bits (formatR op rd rs1 rs2 0 fl) 23 20 = 0 := by
  simp only [bits, formatR, BitVec.toNat_ofNat]
  omega

theorem bits_formatR_above_rs2 : bits (formatR op rd rs1 rs2 0 0) 31 20 = 0 := by
  simp only [bits, formatR, BitVec.toNat_ofNat]
  omega

theorem bits_formatR_above_flag (b : Bool) : bits (formatR op rd rs1 rs2 0 b.toNat) 31 25 = 0 := by
  have := b.toNat_lt
  simp only [bits, formatR, BitVec.toNat_ofNat]
  omega

theorem flagField_formatR (b : Bool) : flagField (formatR op rd rs1 rs2 0 b.toNat) 24 = b := by
  have hbit : bits (formatR op rd rs1 rs2 0 b.toNat) 24 24 = b.toNat := by
    have := b.toNat_lt
    simp only [bits, formatR, BitVec.toNat_ofNat]
    omega
  rw [flagField, hbit]
  cases b <;> rfl

theorem decode_formatR_oneSource {i : XReg → XReg → Instr}
    (hrow : ∀ w, bits w 7 0 = op → decode w = zeros w [(31, 16)] (.ok (i (xField w 8) (xField w 12)))) :
    decode (formatR op rd rs1 0 0 0) = .ok (i rd rs1) := by
  rw [hrow _ (formatR_opcode _ _ _ _ _ _ hop), zeros_singleton (bits_formatR_above_rs1 hop rd rs1),
    xField_formatR_rd hop, xField_formatR_rs1 hop]

theorem decode_formatR_twoSources {i : XReg → XReg → XReg → Instr}
    (hrow : ∀ w, bits w 7 0 = op →
      decode w = zeros w [(31, 20)] (.ok (i (xField w 8) (xField w 12) (xField w 16)))) :
    decode (formatR op rd rs1 rs2 0 0) = .ok (i rd rs1 rs2) := by
  rw [hrow _ (formatR_opcode _ _ _ _ _ _ hop), zeros_singleton (bits_formatR_above_rs2 hop rd rs1 rs2),
    xField_formatR_dest hop, xField_formatR_source1 hop, xField_formatR_source2 hop]

end

/-! ### The decoder on the words of the field commands -/

section
variable (rd rs1 rs2 : XReg)

theorem decode_fred : decode (formatR 0x10 rd rs1 0 0 0) = .ok (.fred rd rs1) :=
  decode_formatR_oneSource (by decide) rd rs1 fun w h => by simp only [decode, h]

theorem decode_fadd : decode (formatR 0x11 rd rs1 rs2 0 0) = .ok (.fadd rd rs1 rs2) :=
  decode_formatR_twoSources (by decide) rd rs1 rs2 fun w h => by simp only [decode, h]

theorem decode_fsub : decode (formatR 0x12 rd rs1 rs2 0 0) = .ok (.fsub rd rs1 rs2) :=
  decode_formatR_twoSources (by decide) rd rs1 rs2 fun w h => by simp only [decode, h]

theorem decode_fneg : decode (formatR 0x13 rd rs1 0 0 0) = .ok (.fneg rd rs1) :=
  decode_formatR_oneSource (by decide) rd rs1 fun w h => by simp only [decode, h]

theorem decode_fmul : decode (formatR 0x14 rd rs1 rs2 0 0) = .ok (.fmul rd rs1 rs2) :=
  decode_formatR_twoSources (by decide) rd rs1 rs2 fun w h => by simp only [decode, h]

theorem decode_finv : decode (formatR 0x15 rd rs1 0 0 0) = .ok (.finv rd rs1) :=
  decode_formatR_oneSource (by decide) rd rs1 fun w h => by simp only [decode, h]

theorem decode_fdiv : decode (formatR 0x16 rd rs1 rs2 0 0) = .ok (.fdiv rd rs1 rs2) :=
  decode_formatR_twoSources (by decide) rd rs1 rs2 fun w h => by simp only [decode, h]

theorem decode_fpow (neg : Bool) : decode (formatR 0x17 rd rs1 rs2 0 neg.toNat) = .ok (.fpow rd rs1 rs2 neg) := by
  have hop : 0x17 < 256 := by decide
  simp only [decode, formatR_opcode _ _ _ _ _ _ hop,
    zeros_pair (bits_formatR_rs3 hop _ _ _ _) (bits_formatR_above_flag hop _ _ _ _), xField_formatR_dest hop,
    xField_formatR_source1 hop, xField_formatR_source2 hop, flagField_formatR hop]

theorem decode_fsqrt : decode (formatR 0x18 rd rs1 0 0 0) = .ok (.fsqrt rd rs1) :=
  decode_formatR_oneSource (by decide) rd rs1 fun w h => by simp only [decode, h]

theorem decode_fisz : decode (formatR 0x19 rd rs1 0 0 0) = .ok (.fisz rd rs1) :=
  decode_formatR_oneSource (by decide) rd rs1 fun w h => by simp only [decode, h]

theorem decode_feq : decode (formatR 0x1A rd rs1 rs2 0 0) = .ok (.feq rd rs1 rs2) :=
  decode_formatR_twoSources (by decide) rd rs1 rs2 fun w h => by simp only [decode, h]

end

/-! ### Residues and integers below `PRIME` -/

theorem eq_of_cast_eq {a b : Nat} (ha : a < prime) (hb : b < prime) (h : (a : Fld) = b) : a = b := by
  rwa [cast_eq_iff, Nat.mod_eq_of_lt ha, Nat.mod_eq_of_lt hb] at h

/-- A reduced integer with the residue of `z` is the Euclidean remainder of `z`. -/
theorem eq_emod_of_cast_eq {v : Nat} {z : Int} (hv : v < prime) (h : (v : Fld) = z) : (v : Int) = z % prime := by
  have hmod : (v : Int) % prime = z % prime :=
    (ZMod.intCast_eq_intCast_iff' _ _ _).1 ((Int.cast_natCast v).trans h)
  rwa [Int.emod_eq_of_lt (Int.natCast_nonneg v) (Int.ofNat_lt.2 hv)] at hmod

theorem mul_mod_eq_one_iff (a b : Nat) : a * b % prime = 1 ↔ (a : Fld) * b = 1 := by
  have hone : (1 : Nat) % prime = 1 := by decide
  rw [← Nat.cast_mul, ← Nat.cast_one (R := Fld), cast_eq_iff, hone]

/-! ### The field functions on register values -/

namespace Fp

theorem add_mod (a b : Nat) : add (a % prime) (b % prime) = (a + b) % prime := (Nat.add_mod a b prime).symm

theorem mul_mod (a b : Nat) : mul (a % prime) (b % prime) = a * b % prime := (Nat.mul_mod a b prime).symm

theorem sub_mod (a b : Nat) : (sub (a % prime) (b % prime) : Int) = ((a : Int) - b) % prime := by
  refine eq_emod_of_cast_eq (sub_lt _ _) ?_
  rw [cast_sub _ (Nat.mod_lt b prime_pos).le]
  simp

theorem neg_mod (a : Nat) : (neg (a % prime) : Int) = (-(a : Int)) % prime := by
  have ha : a % prime < prime := Nat.mod_lt a prime_pos
  refine eq_emod_of_cast_eq (neg_lt ha) ?_
  rw [cast_neg ha.le]
  simp

theorem inv_lt (a : Nat) : inv a < prime := by
  rw [inv_eq]
  exact Nat.mod_lt _ prime_pos

theorem pow_lt (a : Nat) (negative : Bool) (m : Nat) : pow a negative m < prime := by
  rw [pow_eq]
  exact Nat.mod_lt _ prime_pos

theorem sqrt_lt (a : Nat) : sqrt a < prime := by
  rw [sqrt_eq]
  exact Nat.mod_lt _ prime_pos

theorem div_eq (a b : Nat) : div a b = a * (b ^ (prime - 2) % prime) % prime := by
  rw [div, mul, inv_eq]

/-! ### The exponent of FPOW (R128) -/

theorem exponent_true (m : Nat) : (exponent true m : Int) = -(m : Int) % (prime - 1 : Nat) := by
  have hpos : (0 : Int) < (prime - 1 : Nat) := by decide
  rw [exponent, if_pos rfl, ← Nat.cast_pred prime_pos]
  exact Int.toNat_of_nonneg (Int.emod_nonneg _ hpos.ne')

theorem exponent_true_lt (m : Nat) : exponent true m < prime - 1 := by
  have hpos : (0 : Int) < (prime - 1 : Nat) := by decide
  rw [← Int.ofNat_lt, exponent_true]
  exact Int.emod_lt_of_pos _ hpos

theorem exponent_true_add_mod (m : Nat) : (exponent true m + m) % (prime - 1) = 0 := by
  apply Int.ofNat_inj.1
  rw [Int.natCast_emod, Int.natCast_add, exponent_true, Int.emod_add_emod, Int.add_comm, Int.add_right_neg]
  rfl

/-! ### Inverse, quotient and square root -/

theorem cast_ne_zero {a : Nat} (ha : a < prime) (h0 : a ≠ 0) : (a : Fld) ≠ 0 :=
  fun h => h0 (eq_of_cast_eq ha prime_pos (h.trans Nat.cast_zero.symm))

section
variable [Fact prime.Prime]

/-- The Fermat power is the only inverse below `PRIME` (R126). -/
theorem inv_unique {a : Nat} (ha : a < prime) (h0 : a ≠ 0) (v : Nat) :
    (1 ≤ v ∧ v < prime ∧ a * v % prime = 1) ↔ v = inv a := by
  constructor
  · rintro ⟨-, hv, hmul⟩
    refine eq_of_cast_eq hv (inv_lt a) ?_
    rw [cast_inv]
    exact eq_inv_of_mul_eq_one_right ((mul_mod_eq_one_iff a v).1 hmul)
  · intro hv
    have hmul : a * inv a % prime = 1 :=
      (mul_mod_eq_one_iff a _).2 (by rw [cast_inv, mul_inv_cancel₀ (cast_ne_zero ha h0)])
    rw [hv]
    refine ⟨Nat.pos_of_ne_zero fun hz => ?_, inv_lt a, hmul⟩
    rw [hz, Nat.mul_zero, Nat.zero_mod] at hmul
    exact absurd hmul (by decide)

theorem div_mul_mod {a b : Nat} (ha : a < prime) (hb : b < prime) (h0 : b ≠ 0) : div a b * b % prime = a := by
  refine eq_of_cast_eq (Nat.mod_lt _ prime_pos) ha ?_
  rw [ZMod.natCast_mod, Nat.cast_mul, cast_div, div_mul_cancel₀ _ (cast_ne_zero hb h0)]

theorem isSquare_cast_iff {a : Nat} (ha : a < prime) : IsSquare (a : Fld) ↔ ∃ r, r * r % prime = a := by
  constructor
  · rintro ⟨r, hr⟩
    refine ⟨r.val, eq_of_cast_eq (Nat.mod_lt _ prime_pos) ha ?_⟩
    rw [ZMod.natCast_mod, Nat.cast_mul, ZMod.natCast_zmod_val, hr]
  · rintro ⟨r, rfl⟩
    exact ⟨r, by rw [ZMod.natCast_mod, Nat.cast_mul]⟩

/-- `PRIME mod 4 = 3`, so the square of the candidate is `a` times the Euler power of `a` (R129). -/
theorem cast_sqrt_mul_self (a : Nat) : (sqrt a : Fld) * sqrt a = a * (a : Fld) ^ (prime / 2) := by
  rw [sqrt_eq, ZMod.natCast_mod, Nat.cast_pow, ← pow_add, ← pow_succ',
    show (prime + 1) / 4 + (prime + 1) / 4 = prime / 2 + 1 by decide]

theorem sqrt_mul_self_of_isSquare {a : Nat} (ha : a < prime) (hsq : IsSquare (a : Fld)) :
    sqrt a * sqrt a % prime = a := by
  refine eq_of_cast_eq (Nat.mod_lt _ prime_pos) ha ?_
  rw [ZMod.natCast_mod, Nat.cast_mul, cast_sqrt_mul_self]
  by_cases h0 : (a : Fld) = 0
  · rw [h0, zero_mul]
  · rw [(ZMod.euler_criterion prime h0).1 hsq, mul_one]

theorem sqrt_mul_self_of_not_isSquare {a : Nat} (ha : a < prime) (hsq : ¬ IsSquare (a : Fld)) :
    sqrt a * sqrt a % prime = prime - a := by
  have h0 : (a : Fld) ≠ 0 := fun h => hsq (h ▸ IsSquare.zero)
  have heuler : (a : Fld) ^ (prime / 2) = -1 :=
    (ZMod.pow_div_two_eq_neg_one_or_one prime h0).resolve_left fun h => hsq ((ZMod.euler_criterion prime h0).2 h)
  have hpos : a ≠ 0 := fun h => h0 (h ▸ Nat.cast_zero)
  refine eq_of_cast_eq (Nat.mod_lt _ prime_pos) (by omega) ?_
  rw [ZMod.natCast_mod, Nat.cast_mul, cast_sqrt_mul_self, heuler, mul_neg_one, cast_prime_sub ha.le]

end

end Fp

/-! ### What the field commands leave -/

theorem fe_lt (s : State) (i : XReg) : s.fe i < prime := Nat.mod_lt _ prime_pos

theorem toNat_truth (b : Bool) : (truth b).toNat = if b = true then 1 else 0 := by
  cases b <;> rfl

section
variable (s : State) (rd : XReg)

/-- A command that ends with a reduced result writes it whole (R120). -/
theorem finishX_word_writesX {v : Nat} (h : v < prime) :
    ∃ t, finishX s rd (word v) = .next t ∧ s.WritesX t rd v :=
  finishX_writesX s rd (toNat_ofNat_of_lt h)

/-- The answer of a test on residues, as a test on the register values (R32). -/
theorem finishX_truth_writesX {b : Bool} {p : Prop} [Decidable p] (h : b = true ↔ p) :
    ∃ t, finishX s rd (truth b) = .next t ∧ s.WritesX t rd (if p then 1 else 0) :=
  finishX_writesX s rd ((toNat_truth b).trans (if_congr h rfl rfl))

/-- FINV and FDIV: the divisor is tested before anything is written (R126, R127). -/
theorem inverseCheck_outcome {d v : Nat} {q : Nat → Prop} (hv : v < prime) (hq : d ≠ 0 → q v) :
    ∃ t, (if d = 0 then raise s .invZero else finishX s rd (word v)) = .next t ∧
      if d = 0 then s.Faulted t .invZero else ∃ u, s.WritesX t rd u ∧ q u := by
  split
  · exact ⟨_, raise_eq s _, takeFault_faulted s _⟩
  · obtain ⟨t, ht, hw⟩ := finishX_word_writesX s rd hv
    exact ⟨t, ht, v, hw, hq ‹_›⟩

theorem exec_fpow_writesX (rs1 rs2 : XReg) (neg : Bool) : ∃ t, exec (.fpow rd rs1 rs2 neg) s = .next t ∧
    s.WritesX t rd (s.fe rs1 ^ Fp.exponent neg (s.xNat rs2) % prime) := by
  rw [← Fp.pow_eq]
  exact finishX_word_writesX s rd (Fp.pow_lt _ _ _)

end

/-! ### The obligations -/

/-- Settles O30: the words by `decode`'s rows, the results by `Fp.add_mod` to `Fp.neg_mod`, each of them reduced. -/
theorem fieldRing : Obligations.FieldRing := by
  rintro s rd rs1 rs2 a b rfl rfl
  refine ⟨⟨decode_fred rd rs1, finishX_word_writesX s rd (fe_lt s rs1)⟩, ⟨decode_fadd rd rs1 rs2, ?_⟩,
    ⟨decode_fsub rd rs1 rs2, ?_⟩, ⟨decode_fneg rd rs1, ?_⟩, ⟨decode_fmul rd rs1 rs2, ?_⟩⟩
  · rw [← Fp.add_mod]
    exact finishX_word_writesX s rd (Fp.add_lt _ _)
  · obtain ⟨t, ht, hw⟩ := finishX_word_writesX s rd (Fp.sub_lt (s.fe rs1) (s.fe rs2))
    exact ⟨t, _, ht, hw, Fp.sub_mod _ _⟩
  · obtain ⟨t, ht, hw⟩ := finishX_word_writesX s rd (Fp.neg_lt (fe_lt s rs1))
    exact ⟨t, _, ht, hw, Fp.neg_mod _⟩
  · rw [← Fp.mul_mod]
    exact finishX_word_writesX s rd (Fp.mul_lt _ _)

/-- Settles O31: `inverseCheck_outcome` gives the two cases, `Fp.inv_unique` and `Fp.div_mul_mod` the values. -/
theorem fieldInverseAndDivision : Obligations.FieldInverseAndDivision := by
  have : Fact prime.Prime := ⟨prime_prime⟩
  rintro s rd rs1 rs2 a b rfl rfl
  refine ⟨⟨decode_finv rd rs1, ?_⟩, ⟨decode_fdiv rd rs1 rs2, ?_⟩⟩
  · exact inverseCheck_outcome s rd (Fp.inv_lt _) fun h0 => ⟨Fp.inv_eq _, Fp.inv_unique (fe_lt s rs1) h0⟩
  · exact inverseCheck_outcome s rd (Fp.div_lt _ _) fun h0 =>
      ⟨Fp.div_eq _ _, Fp.div_mul_mod (fe_lt s rs1) (fe_lt s rs2) h0⟩

/-- Settles O32: both signs are `exec_fpow_writesX`; the exponent of S = 1 is reduced and cancels `m` modulo
`PRIME - 1`. -/
theorem fieldPower : Obligations.FieldPower := by
  rintro s rd rs1 rs2 a m rfl rfl
  obtain ⟨t, ht, hw⟩ := exec_fpow_writesX s rd rs1 rs2 true
  exact ⟨⟨decode_fpow rd rs1 rs2 false, exec_fpow_writesX s rd rs1 rs2 false⟩, decode_fpow rd rs1 rs2 true,
    t, _, ht, hw, Fp.exponent_true_lt _, Fp.exponent_true_add_mod _⟩

/-- Settles O33: Euler's criterion, by `Fp.sqrt_mul_self_of_isSquare` and `Fp.sqrt_mul_self_of_not_isSquare`. -/
theorem fieldSquareRoot : Obligations.FieldSquareRoot := by
  have : Fact prime.Prime := ⟨prime_prime⟩
  rintro s rd rs1 a rfl
  have ha : s.fe rs1 < prime := fe_lt s rs1
  obtain ⟨t, ht, hw⟩ := finishX_word_writesX s rd (Fp.sqrt_lt (s.fe rs1))
  exact ⟨decode_fsqrt rd rs1, t, _, ht, hw, Fp.sqrt_eq _,
    fun h => Fp.sqrt_mul_self_of_isSquare ha ((Fp.isSquare_cast_iff ha).2 h),
    fun h => Fp.sqrt_mul_self_of_not_isSquare ha (mt (Fp.isSquare_cast_iff ha).1 h)⟩

/-- Settles O34: a zero remainder is divisibility, equal remainders are congruence. -/
theorem fieldTests : Obligations.FieldTests := by
  rintro s rd rs1 rs2 a b rfl rfl
  refine ⟨⟨decode_fisz rd rs1, ?_⟩, ⟨decode_feq rd rs1 rs2, ?_⟩⟩
  · exact finishX_truth_writesX s rd (beq_iff_eq.trans (Nat.dvd_iff_mod_eq_zero ..).symm)
  · exact finishX_truth_writesX s rd beq_iff_eq

end Sys2Proof.Machine
end

section
/-!
PROOFS. The family 42_curve: words of format R with point registers (R72, R75), the curve equation at a zero coordinate
(R152), the sum of two points case by case (R156), and the curve commands but PMUL (R151 to R163).
-/

namespace Sys2Proof.Machine

open Sys2Proof.Laws.Opcode (formatR_opcode)
open Sys2Proof.Config (prime)

/-! ### Words with point registers (R75)

A point register stands in its field by its number, so it is read back as an X register would be. -/

/-- The number of a point register as the content of a 4-bit register field. -/
def pointField (p : PReg) : XReg := p.castLE (by decide)

theorem pField_of_xField {w : Word32} {lo : Nat} {p : PReg} (h : xField w lo = pointField p) : pField w lo = .ok p := by
  have hlt : bits w (lo + 3) lo < 16 := by
    rw [bits, show lo + 3 - lo + 1 = 4 by omega]
    exact Nat.mod_lt _ (by decide)
  have hbits : bits w (lo + 3) lo = p.val := (Nat.mod_eq_of_lt hlt).symm.trans (congrArg Fin.val h)
  rw [pField, dif_pos (hbits ▸ p.isLt)]
  exact congrArg Except.ok (Fin.ext hbits)

theorem pField_bind_of_xField {w : Word32} {lo : Nat} {p : PReg} (h : xField w lo = pointField p)
    (k : PReg → Except DecodeError Instr) : (pField w lo >>= k) = k p := by
  rw [pField_of_xField h]
  rfl

section
variable {op : Nat} (hop : op < 256) (rd rs1 rs2 : XReg) {r : Except DecodeError Instr}
include hop

theorem decode_formatR_of_threeFields (hrow : ∀ w, bits w 7 0 = op → bits w 31 20 = 0 → xField w 8 = rd →
      xField w 12 = rs1 → xField w 16 = rs2 → decode w = r) :
    decode (formatR op rd rs1 rs2 0 0) = r :=
  hrow _ (formatR_opcode _ _ _ _ _ _ hop) (bits_formatR_above_rs2 hop _ _ _) (xField_formatR_dest hop _ _ _ _)
    (xField_formatR_source1 hop _ _ _ _) (xField_formatR_source2 hop _ _ _ _)

theorem decode_formatR_of_twoFields (hrow : ∀ w, bits w 7 0 = op → bits w 31 16 = 0 → xField w 8 = rd →
      xField w 12 = rs1 → decode w = r) :
    decode (formatR op rd rs1 0 0 0) = r :=
  hrow _ (formatR_opcode _ _ _ _ _ _ hop) (bits_formatR_above_rs1 hop _ _) (xField_formatR_rd hop _ _)
    (xField_formatR_rs1 hop _ _)

theorem decode_formatR_of_oneField (hrow : ∀ w, bits w 7 0 = op → bits w 31 12 = 0 → xField w 8 = rd → decode w = r) :
    decode (formatR op rd 0 0 0 0) = r :=
  hrow _ (formatR_opcode _ _ _ _ _ _ hop) (bits_formatR_above_rd hop _) (xField_formatR_rd hop _ 0)

end

/-! ### The decoder on the words of the curve commands -/

section
variable (rd rs1 rs2 : XReg) (pd ps1 ps2 : PReg)

theorem decode_pcont : decode (formatR 0x20 rd rs1 rs2 0 0) = .ok (.pcont rd rs1 rs2) :=
  decode_formatR_twoSources (by decide) rd rs1 rs2 fun w h => by simp only [decode, h]

theorem decode_pnew : decode (formatR 0x21 pd rs1 rs2 0 0) = .ok (.pnew pd rs1 rs2) :=
  decode_formatR_of_threeFields (by decide) (pointField pd) rs1 rs2 fun w hop hz hd h1 h2 => by
    simp only [decode, hop, zeros_singleton hz, pField_bind_of_xField hd, h1, h2]

theorem decode_pinf : decode (formatR 0x22 pd 0 0 0 0) = .ok (.pinf pd) :=
  decode_formatR_of_oneField (by decide) (pointField pd) fun w hop hz hd => by
    simp only [decode, hop, zeros_singleton hz, pField_bind_of_xField hd]

theorem decode_pldg : decode (formatR 0x23 pd 0 0 0 0) = .ok (.pldg pd) :=
  decode_formatR_of_oneField (by decide) (pointField pd) fun w hop hz hd => by
    simp only [decode, hop, zeros_singleton hz, pField_bind_of_xField hd]

theorem decode_pmov : decode (formatR 0x24 pd ps1 0 0 0) = .ok (.pmov pd ps1) :=
  decode_formatR_of_twoFields (by decide) (pointField pd) (pointField ps1) fun w hop hz hd h1 => by
    simp only [decode, hop, zeros_singleton hz, pField_bind_of_xField hd, pField_bind_of_xField h1]

theorem decode_padd : decode (formatR 0x25 pd ps1 ps2 0 0) = .ok (.padd pd ps1 ps2) :=
  decode_formatR_of_threeFields (by decide) (pointField pd) (pointField ps1) (pointField ps2)
    fun w hop hz hd h1 h2 => by
      simp only [decode, hop, zeros_singleton hz, pField_bind_of_xField hd, pField_bind_of_xField h1,
        pField_bind_of_xField h2]

theorem decode_peq : decode (formatR 0x27 rd ps1 ps2 0 0) = .ok (.peq rd ps1 ps2) :=
  decode_formatR_of_threeFields (by decide) rd (pointField ps1) (pointField ps2) fun w hop hz hd h1 h2 => by
    simp only [decode, hop, zeros_singleton hz, hd, pField_bind_of_xField h1, pField_bind_of_xField h2]

theorem decode_pisinf : decode (formatR 0x28 rd ps1 0 0 0) = .ok (.pisinf rd ps1) :=
  decode_formatR_of_twoFields (by decide) rd (pointField ps1) fun w hop hz hd h1 => by
    simp only [decode, hop, zeros_singleton hz, hd, pField_bind_of_xField h1]

theorem decode_pgetx : decode (formatR 0x29 rd ps1 0 0 0) = .ok (.pgetx rd ps1) :=
  decode_formatR_of_twoFields (by decide) rd (pointField ps1) fun w hop hz hd h1 => by
    simp only [decode, hop, zeros_singleton hz, hd, pField_bind_of_xField h1]

theorem decode_pgety : decode (formatR 0x2A rd ps1 0 0 0) = .ok (.pgety rd ps1) :=
  decode_formatR_of_twoFields (by decide) rd (pointField ps1) fun w hop hz hd h1 => by
    simp only [decode, hop, zeros_singleton hz, hd, pField_bind_of_xField h1]

end

/-! ### No point of the curve has a zero coordinate (R152) -/

section
variable [Fact prime.Prime]

/-- Euler's criterion for `k`-th powers: a nonzero `k`-th power has a trivial `(PRIME - 1) / k`-th power. -/
theorem pow_ne_of_powMod_ne_one {k a : Nat} (hk : k ∣ prime - 1) (ha : (a : Fld) ≠ 0)
    (h : powMod a ((prime - 1) / k) prime ≠ 1) (z : Fld) : z ^ k ≠ a := by
  intro hz
  have hk0 : k ≠ 0 := fun h0 => absurd (Nat.eq_zero_of_zero_dvd (h0 ▸ hk)) (by decide)
  have hz0 : z ≠ 0 := fun h0 => ha (by rw [← hz, h0, zero_pow hk0])
  have hone : (powMod a ((prime - 1) / k) prime : Fld) = (1 : Nat) := by
    rw [← pow_zmod, ← hz, ← pow_mul, Nat.mul_div_cancel' hk, ZMod.pow_card_sub_one_eq_one hz0, Nat.cast_one]
  exact h (eq_of_cast_eq (by rw [powMod_eq]; exact Nat.mod_lt _ prime_pos) (by decide) hone)

theorem sq_ne_seven (y : Fld) : y ^ 2 ≠ 7 :=
  pow_ne_of_powMod_ne_one (a := 7) (by decide) seven_ne (by decide +kernel) y

theorem cube_ne_neg_seven (x : Fld) : x ^ 3 ≠ -7 := by
  have hcast : ((prime - 7 : Nat) : Fld) = -7 := cast_prime_sub (a := 7) (by decide)
  rw [← hcast]
  exact pow_ne_of_powMod_ne_one (by decide) (hcast ▸ neg_ne_zero.2 seven_ne) (by decide +kernel) x

theorem not_onCurve_of_zero {x y : Nat} (h : x = 0 ∨ y = 0) : ¬ OnCurve x y := by
  rw [← contains_iff_onCurve, contains_iff]
  intro heq
  rcases h with rfl | rfl
  · exact sq_ne_seven y (by simpa using heq)
  · exact cube_ne_neg_seven x (eq_neg_of_add_eq_zero_left (by simpa using heq.symm))

end

/-! ### The cases of `padd` (R156) -/

section
variable {x1 y1 x2 y2 : Word}

theorem padd_pt_vertical (h : y1 ≠ y2 ∨ y1 = 0) : padd (.pt x1 y1) (.pt x1 y2) = .inf := by
  by_cases hy : y1 = y2
  · subst hy
    rw [padd, if_neg (by simp), if_pos ⟨rfl, rfl, h.resolve_left (not_not.2 rfl)⟩]
  · rw [padd, if_pos ⟨rfl, hy⟩]

theorem padd_pt_same (h : y1 ≠ 0) : padd (.pt x1 y1) (.pt x1 y1) = doublePoint x1.toNat y1.toNat := by
  rw [padd, if_neg (by simp), if_neg fun e => h e.2.2, if_pos ⟨rfl, rfl⟩]

theorem padd_pt_chord (h : x1 ≠ x2) :
    padd (.pt x1 y1) (.pt x2 y2) = chordPoint x1.toNat y1.toNat x2.toNat y2.toNat := by
  simp [padd, h]

end

/-! ### The line through two points -/

/-- The last two cases of R156 compute the third point of the line alike, from its first coordinate on. -/
theorem onLine_of_cast_eq {m x1 y1 x2 x3 : Nat} (hy1 : y1 < prime) (hx3 : x3 < prime)
    (ex : (x3 : Fld) = m * m - x1 - x2) :
    OnLine m x1 y1 x2 (BitVec.ofNat 256 x3) (BitVec.ofNat 256 (Fp.sub (Fp.mul m (Fp.sub x1 x3)) y1)) := by
  have hy3 : Fp.sub (Fp.mul m (Fp.sub x1 x3)) y1 < prime := Fp.sub_lt _ _
  have ey : (Fp.sub (Fp.mul m (Fp.sub x1 x3)) y1 : Fld) = m * (x1 - x3) - y1 := by
    rw [Fp.cast_sub _ hy1.le, Fp.cast_mul, Fp.cast_sub _ hx3.le]
  rw [OnLine, toNat_ofNat_of_lt hx3, toNat_ofNat_of_lt hy3]
  refine ⟨hx3, hy3, (ZMod.intCast_eq_intCast_iff _ _ prime).1 ?_, (ZMod.intCast_eq_intCast_iff _ _ prime).1 ?_⟩
  · push_cast
    exact ex
  · push_cast
    exact ey

section
variable [Fact prime.Prime] {x1 y1 x2 y2 : Nat}

/-- Case 4 of R156: the tangent at a point with `y1 ≠ 0`. -/
theorem doublePoint_onLine (hy1 : y1 < prime) (h0 : y1 ≠ 0) :
    ∃ (m : Int) (x3 y3 : Word), doublePoint x1 y1 = .pt x3 y3 ∧ m * (2 * y1) ≡ 3 * (x1 * x1) [ZMOD prime] ∧
      OnLine m x1 y1 x1 x3 y3 := by
  refine ⟨(Fp.div (Fp.add (Fp.mul 3 (Fp.mul x1 x1)) Config.curveA) (Fp.mul 2 y1) : Nat), _, _, rfl,
    (ZMod.intCast_eq_intCast_iff _ _ prime).1 ?_, onLine_of_cast_eq hy1 (Fp.sub_lt _ _) ?_⟩
  · have hden : (2 : Fld) * y1 ≠ 0 := mul_ne_zero two_ne (Fp.cast_ne_zero hy1 h0)
    push_cast
    simp only [Fp.cast_div, Fp.cast_add, Fp.cast_mul, Config.curveA, Nat.cast_zero, add_zero, Nat.cast_ofNat]
    exact div_mul_cancel₀ _ hden
  · rw [Fp.cast_sub _ (Fp.mul_lt _ _).le, Fp.cast_mul, Fp.cast_mul]
    push_cast
    ring

/-- Case 5 of R156: the chord through two points with different first coordinates. -/
theorem chordPoint_onLine (hx1 : x1 < prime) (hy1 : y1 < prime) (hx2 : x2 < prime) (hx : (x1 : Fld) ≠ x2) :
    ∃ (m : Int) (x3 y3 : Word), chordPoint x1 y1 x2 y2 = .pt x3 y3 ∧
      m * ((x2 : Int) - x1) ≡ (y2 : Int) - y1 [ZMOD prime] ∧ OnLine m x1 y1 x2 x3 y3 := by
  refine ⟨(Fp.div (Fp.sub y2 y1) (Fp.sub x2 x1) : Nat), _, _, rfl,
    (ZMod.intCast_eq_intCast_iff _ _ prime).1 ?_, onLine_of_cast_eq hy1 (Fp.sub_lt _ _) ?_⟩
  · push_cast
    rw [Fp.cast_div, Fp.cast_sub _ hy1.le, Fp.cast_sub _ hx1.le]
    exact div_mul_cancel₀ _ (sub_ne_zero.2 hx.symm)
  · rw [Fp.cast_sub _ hx2.le, Fp.cast_sub _ hx1.le, Fp.cast_mul]

theorem padd_isSum {p q : Point} (hp : p.valid = true) (hq : q.valid = true) : IsSum p q (padd p q) := by
  rcases p with _ | ⟨x1, y1⟩
  · exact rfl
  rcases q with _ | ⟨x2, y2⟩
  · exact rfl
  obtain ⟨hx1, hy1, -⟩ := (valid_pt_iff _ _).1 hp
  obtain ⟨hx2, -, -⟩ := (valid_pt_iff _ _).1 hq
  rw [IsSum]
  split_ifs with hx hy
  · subst hx
    exact padd_pt_vertical hy
  · push Not at hy
    obtain ⟨rfl, h0⟩ := hy
    subst hx
    rw [padd_pt_same h0]
    exact doublePoint_onLine hy1 fun h => h0 (BitVec.eq_of_toNat_eq h)
  · rw [padd_pt_chord hx]
    exact chordPoint_onLine hx1 hy1 hx2 ((word_eq_iff hx1 hx2).not.2 hx)

end

/-! ### What the curve commands leave -/

section
variable (s : State)

theorem finishP_writesP (rd : PReg) (q : Point) : ∃ t, finishP s rd q = .next t ∧ s.WritesP t rd q :=
  ⟨_, finishP_eq s rd q, writeP_complete s rd q⟩

/-- PGETX and PGETY: the identity faults, a normal point gives the coordinate `c` (R162, R163). -/
theorem coordinateRead_outcome (rd : XReg) {q : Point} {r : Result} (c : Word → Word → Word)
    (hinf : q = .inf → r = raise s .noCoord) (hpt : ∀ x y, q = .pt x y → r = finishX s rd (c x y)) :
    ∃ t, r = .next t ∧ (q = .inf → s.Faulted t .noCoord) ∧
      ∀ x y, q = .pt x y → s.WritesX t rd (c x y).toNat := by
  cases q with
  | inf =>
    exact ⟨_, (hinf rfl).trans (raise_eq s _), fun _ => takeFault_faulted s _, fun _ _ h => Point.noConfusion h⟩
  | pt x y =>
    refine ⟨_, (hpt x y rfl).trans (finishX_eq s rd _), fun h => Point.noConfusion h, fun x' y' h => ?_⟩
    obtain ⟨rfl, rfl⟩ := Point.pt.inj h
    exact writeX_complete s rd _

theorem execPnew_outcome (rd : PReg) (rs1 rs2 : XReg) : ∃ t, execPnew rd rs1 rs2 s = .next t ∧
    (OnCurve (s.fe rs1) (s.fe rs2) → s.WritesP t rd (mkPoint (s.fe rs1) (s.fe rs2))) ∧
    (¬ OnCurve (s.fe rs1) (s.fe rs2) → s.Faulted t .notOnCurve) := by
  by_cases h : OnCurve (s.fe rs1) (s.fe rs2)
  · rw [execPnew, if_pos ((contains_iff_onCurve _ _).2 h)]
    exact ⟨_, finishP_eq s rd _, fun _ => writeP_complete s rd _, absurd h⟩
  · rw [execPnew, if_neg (mt (contains_iff_onCurve _ _).1 h)]
    exact ⟨_, raise_eq s _, fun h' => absurd h' h, fun _ => takeFault_faulted s _⟩

end

/-! ### The obligations -/

/-- Settles O35: each answer is a decided proposition, for PCONT by `contains_iff_onCurve`. -/
theorem curveTests : Obligations.CurveTests := by
  classical
  rintro s rd rs1 rs2 ps1 ps2 x y rfl rfl
  refine ⟨⟨decode_pcont rd rs1 rs2, ?_⟩, ⟨decode_peq rd ps1 ps2, ?_⟩, ⟨decode_pisinf rd ps1, ?_⟩⟩
  · obtain ⟨t, ht, hw⟩ := finishX_truth_writesX s rd (contains_iff_onCurve (s.xNat rs1) (s.xNat rs2))
    exact ⟨t, _, ht, hw, fun h => if_pos h, fun h => if_neg h⟩
  · exact finishX_truth_writesX s rd decide_eq_true_iff
  · exact finishX_truth_writesX s rd decide_eq_true_iff

/-- Settles O36: `execPnew_outcome`, and `not_onCurve_of_zero` for the last clause. -/
theorem pointConstruction : Obligations.PointConstruction := by
  have : Fact prime.Prime := ⟨prime_prime⟩
  rintro s rd rs1 rs2 x y rfl rfl
  obtain ⟨t, ht, hon, hoff⟩ := execPnew_outcome s rd rs1 rs2
  exact ⟨decode_pnew rs1 rs2 rd, t, ht, hon, hoff, fun h => hoff (not_onCurve_of_zero h)⟩

/-- Settles O37: three unconditional writes, and twice `coordinateRead_outcome`. -/
theorem pointMovesAndReads : Obligations.PointMovesAndReads := by
  intro s rd rs1 xd
  refine ⟨⟨decode_pldg rd, finishP_writesP s rd _⟩, ⟨decode_pinf rd, finishP_writesP s rd _⟩,
    ⟨decode_pmov rd rs1, finishP_writesP s rd _⟩, ⟨decode_pgetx xd rs1, ?_⟩, ⟨decode_pgety xd rs1, ?_⟩⟩
  · exact coordinateRead_outcome s xd (fun x _ => x) (fun h => by rw [exec, execPgetx, h])
      fun x y h => by rw [exec, execPgetx, h]
  · exact coordinateRead_outcome s xd (fun _ y => y) (fun h => by rw [exec, execPgety, h])
      fun x y h => by rw [exec, execPgety, h]

/-- Settles O38: PADD writes `padd`, which is the sum by `padd_isSum`. -/
theorem pointAddition : Obligations.PointAddition := by
  have : Fact prime.Prime := ⟨prime_prime⟩
  intro s rd rs1 rs2 hs
  obtain ⟨t, ht, hw⟩ := finishP_writesP s rd (padd (s.readP rs1) (s.readP rs2))
  exact ⟨decode_padd rd rs1 rs2, t, _, ht, hw, padd_isSum (hs rs1) (hs rs2)⟩

end Sys2Proof.Machine
end

section
/-!
PROOFS. The family 43_keys: words of format R with flags (R71, R72), `pmul` as repeated addition (R158), the pieces of a
message that SECDEC reads (R183), the length of Base58 texts (R232), and the key commands but the SEC round trip (R180
to R187).
-/

namespace Sys2Proof.Machine

open Sys2Proof.Laws.Opcode (formatR_opcode)
open Sys2Proof.Config (prime order)

/-! ### Words with a source and option flags (R71) -/

theorem zeros_triple {w : Word32} {hi lo hi' lo' hi'' lo'' : Nat} {r : Except DecodeError Instr}
    (h : bits w hi lo = 0) (h' : bits w hi' lo' = 0) (h'' : bits w hi'' lo'' = 0) :
    zeros w [(hi, lo), (hi', lo'), (hi'', lo'')] r = r :=
  if_pos (by simp [h, h', h''])

section
variable {op : Nat} (hop : op < 256) (rs1 : XReg)
include hop

theorem bits_formatR_below_rs1 (fl : Nat) : bits (formatR op 0 rs1 0 0 fl) 11 8 = 0 := by
  simp only [bits, formatR, BitVec.toNat_ofNat]
  omega

theorem bits_formatR_rs2_rs3 (fl : Nat) : bits (formatR op 0 rs1 0 0 fl) 23 16 = 0 := by
  simp only [bits, formatR, BitVec.toNat_ofNat]
  omega

section
variable (c t : Bool)

theorem bits_formatR_above_flags : bits (formatR op 0 rs1 0 0 (c.toNat + 2 * t.toNat)) 31 26 = 0 := by
  have := c.toNat_lt
  have := t.toNat_lt
  simp only [bits, formatR, BitVec.toNat_ofNat]
  omega

theorem flagField_formatR_low : flagField (formatR op 0 rs1 0 0 (c.toNat + 2 * t.toNat)) 24 = c := by
  have hbit : bits (formatR op 0 rs1 0 0 (c.toNat + 2 * t.toNat)) 24 24 = c.toNat := by
    have := c.toNat_lt
    have := t.toNat_lt
    simp only [bits, formatR, BitVec.toNat_ofNat]
    omega
  rw [flagField, hbit]
  cases c <;> rfl

theorem flagField_formatR_high : flagField (formatR op 0 rs1 0 0 (c.toNat + 2 * t.toNat)) 25 = t := by
  have hbit : bits (formatR op 0 rs1 0 0 (c.toNat + 2 * t.toNat)) 25 25 = t.toNat := by
    have := c.toNat_lt
    have := t.toNat_lt
    simp only [bits, formatR, BitVec.toNat_ofNat]
    omega
  rw [flagField, hbit]
  cases t <;> rfl

end

end

/-! ### The decoder on the words of the key commands -/

section
variable (pd ps1 : PReg) (rs1 : XReg) (c t : Bool)

theorem decode_keygen : decode (formatR 0x30 pd rs1 0 0 0) = .ok (.keygen pd rs1) :=
  decode_formatR_of_twoFields (by decide) (pointField pd) rs1 fun w hop hz hd h1 => by
    simp only [decode, hop, zeros_singleton hz, pField_bind_of_xField hd, h1]

theorem decode_secenc : decode (formatR 0x31 0 ps1 0 0 c.toNat) = .ok (.secenc ps1 c) := by
  have hop : 0x31 < 256 := by decide
  have hs : xField (formatR 0x31 0 ps1 0 0 c.toNat) 12 = pointField ps1 :=
    xField_formatR_source1 hop 0 (pointField ps1) 0 c.toNat
  have hf : flagField (formatR 0x31 0 ps1 0 0 c.toNat) 24 = c := flagField_formatR hop 0 (pointField ps1) 0 c
  have hz : ∀ i, zeros (formatR 0x31 0 ps1 0 0 c.toNat) [(11, 8), (23, 16), (31, 25)] i = i := fun _ =>
    zeros_triple (bits_formatR_below_rs1 hop (pointField ps1) _) (bits_formatR_rs2_rs3 hop (pointField ps1) _)
      (bits_formatR_above_flag hop 0 (pointField ps1) 0 c)
  simp only [decode, formatR_opcode _ _ _ _ _ _ hop, hz, pField_bind_of_xField hs, hf]

theorem decode_secdec : decode (formatR 0x32 pd 0 0 0 0) = .ok (.secdec pd) :=
  decode_formatR_of_oneField (by decide) (pointField pd) fun w hop hz hd => by
    simp only [decode, hop, zeros_singleton hz, pField_bind_of_xField hd]

/-- The word of a command with one source and both flags, as its row of `decode` reads it. -/
theorem decode_formatR_of_sourceAndFlags {op : Nat} (hop : op < 256) {r : Except DecodeError Instr}
    (hrow : ∀ w, bits w 7 0 = op → (∀ i, zeros w [(11, 8), (23, 16), (31, 26)] i = i) → xField w 12 = rs1 →
      flagField w 24 = c → flagField w 25 = t → decode w = r) :
    decode (formatR op 0 rs1 0 0 (c.toNat + 2 * t.toNat)) = r :=
  hrow _ (formatR_opcode _ _ _ _ _ _ hop)
    (fun _ => zeros_triple (bits_formatR_below_rs1 hop rs1 _) (bits_formatR_rs2_rs3 hop rs1 _)
      (bits_formatR_above_flags hop rs1 c t))
    (xField_formatR_source1 hop 0 rs1 0 _) (flagField_formatR_low hop rs1 c t) (flagField_formatR_high hop rs1 c t)

theorem decode_addr : decode (formatR 0x33 0 ps1 0 0 (c.toNat + 2 * t.toNat)) = .ok (.addr ps1 c t) :=
  decode_formatR_of_sourceAndFlags (pointField ps1) c t (by decide) fun w hop hz hs hc ht => by
    simp only [decode, hop, hz, pField_bind_of_xField hs, hc, ht]

theorem decode_wif : decode (formatR 0x34 0 rs1 0 0 (c.toNat + 2 * t.toNat)) = .ok (.wif rs1 c t) :=
  decode_formatR_of_sourceAndFlags rs1 c t (by decide) fun w hop hz hs hc ht => by
    simp only [decode, hop, hz, hs, hc, ht]

end

/-! ### Repeated addition (R158) -/

section
variable [Fact prime.Prime]

/-- The double-and-add loop is repeated addition: both are the scalar multiple in the group of the curve. -/
theorem pmul_eq_multiple (k : Nat) {p : Point} (hp : p.valid = true) : pmul k p = multiple (k % order) p := by
  classical
  obtain ⟨hpv, hpc⟩ := pmul_toCurve k hp
  obtain ⟨hmv, hmc⟩ := multiple_toCurve (k % order) hp
  exact (toCurve_inj hpv hmv).1 (hpc.trans hmc.symm)

end

theorem multiple_zero (p : Point) : multiple 0 p = .inf := rfl

theorem multiple_one (p : Point) : multiple 1 p = p := rfl

/-! ### Commands whose next state is known to exist

Every command answers a next state; what that state is follows from the operation the command turns out to end with. -/

theorem exec_next (i : Instr) (s : State) : ∃ t, exec i s = .next t := by
  have : Fact prime.Prime := ⟨prime_prime⟩
  have h := exec_ends i s
  generalize exec i s = r at h ⊢
  cases h <;> exact ⟨_, rfl⟩

section
variable {s t : State} {r : Result} (ht : r = .next t)
include ht

theorem faulted_of_eq_raise {e : ErrCode} (h : r = raise s e) : s.Faulted t e := by
  cases ht.symm.trans h
  exact takeFault_faulted s e

theorem writesP_of_eq_finishP {d : PReg} {q : Point} (h : r = finishP s d q) : s.WritesP t d q := by
  cases ht.symm.trans h
  exact writeP_complete s d q

theorem writesMsg_of_eq_setMsg (hw : s.bufCanonical) {bs : Bytes} (hl : bs.length ≤ 256) (h : r = setMsg s bs) :
    s.WritesMsg t bs := by
  cases ht.symm.trans (h.trans (setMsg_eq s hl))
  exact withMsg_complete s hw hl

end

/-! ### The SEC string of a point (R181) -/

theorem sec_inf (c : Bool) : sec .inf c = .error .serIdentity := rfl

/-- The SEC string of the normal point `(x, y)` (R181). -/
def secString (x y : Word) (c : Bool) : Bytes :=
  if c then (if y.toNat % 2 = 0 then 0x02 else 0x03) :: bytesBE x.toNat 32
  else 0x04 :: (bytesBE x.toNat 32 ++ bytesBE y.toNat 32)

theorem sec_pt (x y : Word) (c : Bool) : sec (.pt x y) c = .ok (secString x y c) := rfl

theorem secString_length (x y : Word) (c : Bool) : (secString x y c).length = if c then 33 else 65 :=
  sec_length (sec_pt x y c)

section
variable {s : State} {ps1 : PReg} (h : s.readP ps1 = .inf) (c t : Bool)
include h

theorem exec_secenc_inf : exec (.secenc ps1 c) s = raise s .serIdentity := by
  rw [exec, execSecenc, h, sec_inf, attempt_error, raise_eq]

theorem exec_addr_inf : exec (.addr ps1 c t) s = raise s .serIdentity := by
  rw [exec, execAddr, h, sec_inf, attempt_error, raise_eq]

end

section
variable {s : State} {ps1 : PReg} {x y : Word} (h : s.readP ps1 = .pt x y)
include h

theorem exec_secenc_pt (c : Bool) : exec (.secenc ps1 c) s = setMsg s (secString x y c) := by
  rw [exec, execSecenc, h, sec_pt, attempt_ok]

theorem exec_addr_pt (c t : Bool) : exec (.addr ps1 c t) s = setMsg s (addressText (secString x y c) t) := by
  rw [exec, execAddr, h, sec_pt, attempt_ok]

theorem secenc_writesMsg (hw : s.bufCanonical) {c : Bool} {t : State} (ht : exec (.secenc ps1 c) s = .next t) :
    s.WritesMsg t (secString x y c) :=
  writesMsg_of_eq_setMsg ht hw (by rw [secString_length]; split <;> decide) (exec_secenc_pt h c)

end

/-! ### Pieces of the message (R183) -/

theorem Memory.readBytes_drop (m : Memory) (k n i : Nat) :
    (readBytes m k n).drop i = readBytes m (k + i) (n - i) := by
  induction i generalizing k n with
  | zero => rfl
  | succ i ih =>
    cases n with
    | zero => rw [Nat.zero_sub]; rfl
    | succ n => rw [readBytes, List.drop_succ_cons, ih, Nat.add_sub_add_right, Nat.add_assoc, Nat.add_comm 1 i]

theorem Memory.readBytes_take (m : Memory) {k n j : Nat} (h : j ≤ n) :
    (readBytes m k n).take j = readBytes m k j := by
  induction j generalizing k n with
  | zero => rfl
  | succ j ih =>
    obtain ⟨n, rfl⟩ := Nat.exists_eq_add_of_le' (Nat.zero_lt_of_lt h)
    rw [readBytes, readBytes, List.take_succ_cons, ih (Nat.le_of_succ_le_succ h)]

section
variable (s : State)

theorem msg_slice {i j : Nat} (h : i + j ≤ s.len.val) : (s.msg.drop i).take j = Memory.readBytes s.buf i j := by
  rw [State.msg, Memory.readBytes_drop, Memory.readBytes_take _ (by omega), Nat.zero_add]

theorem msg_head (h : 0 < s.len.val) : s.msg.getD 0 0 = s.byte 0 := by
  rw [State.msg, Memory.readBytes_getD _ _ _ _ h, State.byte]

/-! ### The forms of SECDEC (R183) -/

/-- The check that ends both forms of `secdec`: the point of two reduced coordinates, if it is on the curve. -/
def checkedPoint (x y : Nat) : Except ErrCode Point :=
  if contains x y then .ok (mkPoint x y) else .error .notOnCurve

theorem checkedPoint_of_onCurve {x y : Nat} (h : OnCurve x y) : checkedPoint x y = .ok (mkPoint x y) :=
  if_pos ((contains_iff_onCurve x y).2 h)

theorem checkedPoint_of_not_onCurve {x y : Nat} (h : ¬ OnCurve x y) : checkedPoint x y = .error .notOnCurve :=
  if_neg (mt (contains_iff_onCurve x y).1 h)

theorem curve_right_side (x : Nat) : Fp.add (Fp.mul (Fp.mul x x) x) Config.curveB = (x * x * x + 7) % prime := by
  rw [Fp.add, Fp.mul, Fp.mul, Nat.mod_add_mod, Config.curveB, Nat.add_mod, Nat.mod_mul_mod, ← Nat.add_mod]

theorem secdec_badLength (h33 : s.len.val ≠ 33) (h65 : s.len.val ≠ 65) : secdec s.msg = .error .badLength := by
  rw [secdec, State.msg_length, if_neg h65, if_neg h33]

section
variable (hl : s.len.val = 65)
include hl

theorem secdec_uncompressed_badTag (h : s.byte 0 ≠ 0x04) : secdec s.msg = .error .secTag := by
  rw [secdec, State.msg_length, if_pos hl, secdecUncompressed, msg_head s (by omega), if_pos h]

theorem secdec_uncompressed (h : s.byte 0 = 0x04) : secdec s.msg =
    checkedPoint (intBE (Memory.readBytes s.buf 1 32) % prime) (intBE (Memory.readBytes s.buf 33 32) % prime) := by
  rw [secdec, State.msg_length, if_pos hl, secdecUncompressed, msg_head s (by omega), if_neg (not_not.2 h),
    msg_slice s (by omega), msg_slice s (by omega), checkedPoint]

end

section
variable (hl : s.len.val = 33)
include hl

theorem secdec_compressed_badTag (h2 : s.byte 0 ≠ 0x02) (h3 : s.byte 0 ≠ 0x03) : secdec s.msg = .error .secTag := by
  rw [secdec, State.msg_length, if_neg (by omega), if_pos hl, secdecCompressed,
    msg_head s (by omega), if_pos ⟨h2, h3⟩]

/-- The compressed form: the root of the curve's right side whose parity the tag names. -/
theorem secdec_compressed {x beta : Nat} (hx : x = intBE (Memory.readBytes s.buf 1 32) % prime)
    (hb : beta = ((x * x * x + 7) % prime) ^ ((prime + 1) / 4) % prime) (h : s.byte 0 = 0x02 ∨ s.byte 0 = 0x03) :
    secdec s.msg =
      checkedPoint x (if beta % 2 = 0 ↔ s.byte 0 = 0x02 then beta else (prime - beta) % prime) := by
  have hroot : Fp.sqrt (Fp.add (Fp.mul (Fp.mul x x) x) Config.curveB) = beta := by
    rw [curve_right_side, Fp.sqrt_eq, hb]
  have htag : ¬ (s.byte 0 ≠ 0x02 ∧ s.byte 0 ≠ 0x03) := by
    rwa [← not_or, not_not]
  have hparity : ((beta % 2 == 0) = (s.byte 0 == 0x02)) ↔ (beta % 2 = 0 ↔ s.byte 0 = 0x02) := by
    rw [Bool.eq_iff_iff, beq_iff_eq, beq_iff_eq]
  rw [secdec, State.msg_length, if_neg (by omega), if_pos hl, secdecCompressed, msg_head s (by omega), if_neg htag,
    msg_slice s (by omega), ← hx]
  simp only [hroot, hparity, checkedPoint]

end

/-! ### What SECDEC leaves -/

section
variable {s} {rd : PReg} {t : State} (ht : exec (.secdec rd) s = .next t)
include ht

theorem secdec_faulted {e : ErrCode} (h : secdec s.msg = .error e) : s.Faulted t e :=
  faulted_of_eq_raise ht (by rw [exec, execSecdec, h, attempt_error, raise_eq])

theorem secdec_outcome {x y : Nat} (h : secdec s.msg = checkedPoint x y) :
    (OnCurve x y → s.WritesP t rd (mkPoint x y)) ∧ (¬ OnCurve x y → s.Faulted t .notOnCurve) := by
  refine ⟨fun hc => writesP_of_eq_finishP ht ?_, fun hc => secdec_faulted ht ?_⟩
  · rw [exec, execSecdec, h, checkedPoint_of_onCurve hc, attempt_ok]
  · rw [h, checkedPoint_of_not_onCurve hc]

end

end

/-! ### The length of a Base58 text (R232) -/

namespace Base58

theorem digits_length_le_of_lt {fuel v n : Nat} (h : v < 58 ^ n) (acc : List Nat) :
    (digits fuel v acc).length ≤ n + acc.length := by
  induction fuel generalizing v n acc with
  | zero => exact Nat.le_add_left _ _
  | succ fuel ih =>
    rw [digits]
    split
    · exact Nat.le_add_left _ _
    · obtain _ | n := n
      · omega
      · have := ih (show v / 58 < 58 ^ n by rw [Nat.pow_succ] at h; omega) (v % 58 :: acc)
        rw [List.length_cons] at this
        omega

/-- Leading zero bytes add nothing to the integer of a string. -/
theorem intBE_lt_of_leading (m : Bytes) : intBE m < 256 ^ (m.length - leading 0 m) := by
  induction m with
  | nil => decide
  | cons b m ih =>
    rw [leading]
    split
    · next h => simpa [intBE_cons, h] using ih
    · exact intBE_lt _

/-- A text has at most `n` characters if `n` base-58 digits can hold every string as long as the encoded one. -/
theorem encode_length_le_of_pow_le {m : Bytes} {n : Nat} (h : 256 ^ m.length ≤ 58 ^ n) : (encode m).length ≤ n := by
  have hlead := leading_le 0 m
  have hn : m.length ≤ n :=
    (Nat.pow_le_pow_iff_right (by decide)).1 ((Nat.pow_le_pow_left (by decide : 58 ≤ 256) _).trans h)
  have hpow : 256 ^ (m.length - leading 0 m) ≤ 58 ^ (n - leading 0 m) := by
    refine Nat.le_of_mul_le_mul_right ?_ (Nat.pow_pos (n := leading 0 m) (by decide : 0 < 58))
    calc 256 ^ (m.length - leading 0 m) * 58 ^ leading 0 m
        ≤ 256 ^ (m.length - leading 0 m) * 256 ^ leading 0 m :=
          Nat.mul_le_mul_left _ (Nat.pow_le_pow_left (by decide) _)
      _ = 256 ^ m.length := by rw [← Nat.pow_add, Nat.sub_add_cancel hlead]
      _ ≤ 58 ^ n := h
      _ = 58 ^ (n - leading 0 m) * 58 ^ leading 0 m := by rw [← Nat.pow_add, Nat.sub_add_cancel (hlead.trans hn)]
  have hdigits := digits_length_le_of_lt (fuel := 2 * m.length) ((intBE_lt_of_leading m).trans_le hpow) []
  rw [List.length_nil] at hdigits
  rw [encode, List.length_append, List.length_replicate, List.length_map]
  omega

end Base58

/-- The 25 bytes of an address payload take at most 35 characters (R186). -/
theorem addressText_length_le_35 (bs : Bytes) (t : Bool) : (addressText bs t).length ≤ 35 := by
  refine Base58.encode_length_le_of_pow_le ?_
  have hlen : (verAddr t :: hash160 bs ++ Base58.checksum (verAddr t :: hash160 bs)).length = 25 := by
    simp [Base58.checksum]
  rw [hlen]
  decide

/-! ### The obligations -/

/-- Settles O41: KEYGEN writes `pmul` of the base point, which is repeated addition by `pmul_eq_multiple`; the corner
secrets are the multiples 0 and 1. -/
theorem keyGeneration : Obligations.KeyGeneration := by
  have : Fact prime.Prime := ⟨prime_prime⟩
  intro s rd rs1
  obtain ⟨t, ht, hw⟩ := finishP_writesP s rd (pmul (s.readX rs1).toNat basePoint)
  have hm : t.readP rd = multiple ((s.readX rs1).toNat % order) basePoint :=
    hw.value.trans (pmul_eq_multiple _ basePoint_valid)
  refine ⟨decode_keygen rd rs1, t, ht, hw, hm, fun h => ?_, fun h => ?_⟩
  · have h0 : (s.readX rs1).toNat % order = 0 := by
      rcases h with h | h
      · rw [h, Nat.zero_mod]
      · rw [h, Nat.mod_self]
    rw [hm, h0, multiple_zero]
  · rw [hm, h, Nat.mod_eq_of_lt (by decide), multiple_one]
    rfl

/-- Settles O43: the SEC string of each form fits the buffer, and `SetMsg` writes it. -/
theorem secEncode : Obligations.SecEncode := by
  intro s rs1 hw
  obtain ⟨t, ht⟩ := exec_next (.secenc rs1 false) s
  obtain ⟨u, hu⟩ := exec_next (.secenc rs1 true) s
  refine ⟨⟨decode_secenc rs1 false, decode_secenc rs1 true⟩, t, u, ht, hu, fun h => ?_, fun x y h => ?_⟩
  · exact ⟨faulted_of_eq_raise ht (exec_secenc_inf h false), faulted_of_eq_raise hu (exec_secenc_inf h true)⟩
  · have hmt := secenc_writesMsg h hw ht
    have hmu := secenc_writesMsg h hw hu
    exact ⟨hmt, hmt.len.trans (secString_length x y false), hmu, hmu.len.trans (secString_length x y true)⟩

/-- Settles O44: one equation of `secdec` per length and tag, and `secdec_outcome` where a point is decoded. -/
theorem secDecode : Obligations.SecDecode := by
  rintro s rd x y beta hx rfl hb
  obtain ⟨t, ht⟩ := exec_next (.secdec rd) s
  refine ⟨decode_secdec rd, t, ht, fun h33 h65 => ?_, fun hl htag => ?_, fun hl htag => ?_, fun hl h2 h3 => ?_,
    fun hl htag => ⟨_, rfl, ?_⟩⟩
  · exact secdec_faulted ht (secdec_badLength s h33 h65)
  · exact secdec_faulted ht (secdec_uncompressed_badTag s hl htag)
  · rw [hx]
    exact secdec_outcome ht (secdec_uncompressed s hl htag)
  · exact secdec_faulted ht (secdec_compressed_badTag s hl h2 h3)
  · exact secdec_outcome ht (secdec_compressed s hl hx hb htag)

/-- Settles O46: both texts fit the buffer, and `SetMsg` writes them; ADDR of the identity stops at the SEC string. -/
theorem addressAndWalletTexts : Obligations.AddressAndWalletTexts := by
  intro s ps1 rs1 c t hw
  obtain ⟨u, hu⟩ := exec_next (.addr ps1 c t) s
  obtain ⟨v, hv⟩ := exec_next (.wif rs1 c t) s
  refine ⟨⟨decode_addr ps1 c t, u, hu, fun h => ?_, fun x y h => ?_⟩, decode_wif rs1 c t, v, hv, ?_⟩
  · exact faulted_of_eq_raise hu (exec_addr_inf h c t)
  · have hlen := addressText_length_le_35 (secString x y c) t
    have hm := writesMsg_of_eq_setMsg hu hw (hlen.trans (by decide)) (exec_addr_pt h c t)
    exact ⟨hm.len.trans_le hlen, hm⟩
  · exact writesMsg_of_eq_setMsg hv hw ((wifText_length_le (s.readX rs1) c t).trans (by decide)) rfl

end Sys2Proof.Machine
end

section
/-!
PROOFS. The family 44_ecdsa: words of format R with all four registers (R72), the inverse modulo `N` (R201), VERIFY
(R207), and the DER encoding with its command DERENC (R210, R211, R213).
-/

namespace Sys2Proof.Machine

open Sys2Proof.Laws.Opcode (formatR_opcode)
open Sys2Proof.Config (order)

/-! ### Words with four registers (R72) -/

theorem bits_eq_zero_of_xField {w : Word32} {lo : Nat} (h : xField w lo = 0) : bits w (lo + 3) lo = 0 := by
  have hlt : bits w (lo + 3) lo < 16 := by
    rw [bits, show lo + 3 - lo + 1 = 4 by omega]
    exact Nat.mod_lt _ (by decide)
  exact (Nat.mod_eq_of_lt hlt).symm.trans (congrArg Fin.val h)

section
variable {op : Nat} (hop : op < 256) (rd rs1 rs2 rs3 : XReg)
include hop

theorem xFields_formatR :
    xField (formatR op rd rs1 rs2 rs3 0) 8 = rd ∧ xField (formatR op rd rs1 rs2 rs3 0) 12 = rs1 ∧
      xField (formatR op rd rs1 rs2 rs3 0) 16 = rs2 ∧ xField (formatR op rd rs1 rs2 rs3 0) 20 = rs3 := by
  simp only [Fin.ext_iff, xField, Fin.ofNat, bits, formatR, BitVec.toNat_ofNat]
  omega

theorem bits_formatR_above_rs3 : bits (formatR op rd rs1 rs2 rs3 0) 31 24 = 0 := by
  simp only [bits, formatR, BitVec.toNat_ofNat]
  omega

theorem decode_formatR_of_fourFields {r : Except DecodeError Instr} (hrow : ∀ w, bits w 7 0 = op → bits w 31 24 = 0 →
      xField w 8 = rd → xField w 12 = rs1 → xField w 16 = rs2 → xField w 20 = rs3 → decode w = r) :
    decode (formatR op rd rs1 rs2 rs3 0) = r := by
  obtain ⟨hd, h1, h2, h3⟩ := xFields_formatR hop rd rs1 rs2 rs3
  exact hrow _ (formatR_opcode _ _ _ _ _ _ hop) (bits_formatR_above_rs3 hop rd rs1 rs2 rs3) hd h1 h2 h3

end

theorem decode_verify (rd : XReg) (rs3 : PReg) (rs1 rs2 : XReg) :
    decode (formatR 0x42 rd rs1 rs2 rs3 0) = .ok (.verify rd rs3 rs1 rs2) :=
  decode_formatR_of_fourFields (by decide) rd rs1 rs2 (pointField rs3) fun w hop hz hd h1 h2 h3 => by
    simp only [decode, hop, zeros_singleton hz, hd, h1, h2, pField_bind_of_xField h3]

theorem decode_derenc (rs1 rs2 : XReg) : decode (formatR 0x43 0 rs1 rs2 0 0) = .ok (.derenc rs1 rs2) :=
  decode_formatR_of_threeFields (by decide) 0 rs1 rs2 fun w hop hz hd h1 h2 => by
    simp only [decode, hop, zeros_pair (bits_eq_zero_of_xField hd) hz, h1, h2]

/-! ### The inverse modulo `N` (R201) -/

/-- Fermat: the power `n - 2` inverts modulo a prime `n`. -/
theorem mul_pow_sub_two_mod {n a : Nat} (hn : n.Prime) (ha : a % n ≠ 0) : a * (a ^ (n - 2) % n) % n = 1 := by
  have hco : Nat.Coprime a n :=
    ((Nat.Prime.coprime_iff_not_dvd hn).2 fun hd => ha (Nat.mod_eq_zero_of_dvd hd)).symm
  have hexp : n - 2 + 1 = n.totient := by
    have := hn.two_le
    rw [Nat.totient_prime hn]
    omega
  calc a * (a ^ (n - 2) % n) % n = a ^ n.totient % n := by rw [Nat.mul_mod_mod, ← pow_succ', hexp]
    _ = 1 % n := Nat.ModEq.pow_totient hco
    _ = 1 := Nat.mod_eq_of_lt hn.one_lt

/-- `inv_N(a)` is in `[1, N)` and inverts `a` (R201). -/
theorem invN_spec {a : Nat} (ha : a % order ≠ 0) : 1 ≤ invN a ∧ invN a < order ∧ a * invN a % order = 1 := by
  have hmul : a * invN a % order = 1 := by
    rw [invN, powMod_eq]
    exact mul_pow_sub_two_mod order_prime ha
  refine ⟨Nat.pos_of_ne_zero fun hz => ?_, ?_, hmul⟩
  · rw [hz, Nat.mul_zero, Nat.zero_mod] at hmul
    exact absurd hmul (by decide)
  · rw [invN, powMod_eq]
    exact Nat.mod_lt _ order_prime.pos

/-! ### VERIFY (R207) -/

theorem verifyDigest_of_zero {q : Point} {z r sv : Nat} (h : sv % order = 0) : verifyDigest q z r sv = false :=
  if_pos h

theorem verifyDigest_iff {q : Point} {z r sv : Nat} (h : sv % order ≠ 0) : verifyDigest q z r sv = true ↔
    ∃ x y : Word, x.toNat = r ∧
      padd (pmul (z * invN (sv % order) % order) basePoint) (pmul (r * invN (sv % order) % order) q) = .pt x y := by
  rw [verifyDigest, if_neg h]
  dsimp only
  split <;> simp [*]

theorem writesX_of_eq_finishX {s t : State} {r : Result} {d : XReg} {v : Word} (ht : r = .next t)
    (h : r = finishX s d v) : s.WritesX t d v.toNat := by
  cases ht.symm.trans h
  exact writeX_complete s d v

section
variable (s : State) (rd : XReg) (rs3 : PReg) (rs1 rs2 : XReg)

theorem exec_verify_badLength (h : s.len.val ≠ 32) : exec (.verify rd rs3 rs1 rs2) s = raise s .badLength := by
  rw [exec, execVerify, verify, State.msg_length, if_pos h, attempt_error, raise_eq]

theorem exec_verify (h : s.len.val = 32) : exec (.verify rd rs3 rs1 rs2) s =
    finishX s rd (truth (verifyDigest (s.readP rs3) (intBE s.msg) (s.readX rs1).toNat (s.readX rs2).toNat)) := by
  rw [exec, execVerify, verify, State.msg_length, if_neg (not_not.2 h), attempt_ok]
  rfl

end

/-! ### The DER encoding (R210, R211) -/

theorem head_ne_zero_of_strip0 {m s : Bytes} {a : Byte} (h : strip0 m = a :: s) : a ≠ 0 := by
  induction m with
  | nil => cases h
  | cons b m ih =>
    rw [strip0] at h
    split at h
    · exact ih h
    · cases h
      assumption

namespace Der

theorem content_zero : content 0 = [] := by decide

theorem intBE_content {v : Nat} (h : v < 256 ^ 32) : intBE (content v) = v := by
  have hstrip : intBE (strip0 (bytesBE v 32)) = v := by
    rw [intBE_strip0, intBE_bytesBE, Nat.mod_eq_of_lt h]
  rw [content_eq]
  split
  · rw [intBE_cons, hstrip]
    simp
  · exact hstrip

/-- The content bytes read as a signed number are not negative, and a zero byte stands in front only for that (R210). -/
theorem content_head {v : Nat} {a : Byte} {e : Bytes} (h : content v = a :: e) :
    a.toNat < 0x80 ∧ (a = 0 → ∃ a' e', e = a' :: e' ∧ 0x80 ≤ a'.toNat) := by
  rw [content_eq] at h
  cases hs : strip0 (bytesBE v 32) with
  | nil => simp [hs] at h
  | cons a' e' =>
    rw [hs, List.headD_cons] at h
    split at h
    next hhigh =>
      cases h
      exact ⟨by decide, fun _ => ⟨a', e', rfl, hhigh⟩⟩
    next hlow =>
      cases h
      exact ⟨Nat.lt_of_not_le hlow, fun h0 => absurd h0 (head_ne_zero_of_strip0 hs)⟩

theorem encode_eq (r s : Nat) : encode r s =
    0x30 :: BitVec.ofNat 8 (4 + (content r).length + (content s).length) ::
      0x02 :: BitVec.ofNat 8 (content r).length ::
        (content r ++ 0x02 :: BitVec.ofNat 8 (content s).length :: content s) := by
  have hlen : (int r).length + (int s).length = 4 + (content r).length + (content s).length := by
    simp only [int, List.length_cons]
    omega
  rw [encode, hlen]
  rfl

end Der

/-! ### The obligations -/

/-- Settles O50: `exec_verify` writes the verdict, `verifyDigest_iff` says when it is 1, and `invN_spec` pins the inverse
of `s mod N`, which is the inverse of `s`. -/
theorem verifyVerdict : Obligations.VerifyVerdict := by
  rintro s rd rs3 rs1 rs2 z r sv rfl rfl rfl
  obtain ⟨t, ht⟩ := exec_next (.verify rd rs3 rs1 rs2) s
  refine ⟨decode_verify rd rs3 rs1 rs2, t, ht, fun hl => ?_, fun hl h0 => ?_, fun hl h0 => ?_⟩
  · exact faulted_of_eq_raise ht (exec_verify_badLength s rd rs3 rs1 rs2 hl)
  · have hw := writesX_of_eq_finishX ht (exec_verify s rd rs3 rs1 rs2 hl)
    rwa [verifyDigest_of_zero h0] at hw
  · obtain ⟨hpos, hlt, hmul⟩ := invN_spec (a := (s.readX rs2).toNat % order) (by rwa [Nat.mod_mod])
    rw [Nat.mod_mul_mod] at hmul
    refine ⟨_, _, hpos, hlt, hmul, writesX_of_eq_finishX ht (exec_verify s rd rs3 rs1 rs2 hl), ?_, ?_⟩
    · rw [← verifyDigest_iff h0, toNat_truth]
      simp
    · rw [toNat_truth]
      split
      · exact .inr rfl
      · exact .inl rfl

/-- Settles O52: `SetMsg` writes the encoding, which always fits; each component is the content bytes of one register. -/
theorem derEncode : Obligations.DerEncode := by
  intro s rs1 rs2 hw
  obtain ⟨t, ht⟩ := exec_next (.derenc rs1 rs2) s
  have hlen := Der.encode_length_le (s.readX rs1).toNat (s.readX rs2).toNat
  have hm := writesMsg_of_eq_setMsg ht hw (hlen.trans (by decide)) rfl
  refine ⟨decode_derenc rs1 rs2, t, Der.content (s.readX rs1).toNat, Der.content (s.readX rs2).toNat, ht, ?_,
    hm.len.trans_le hlen, ?_⟩
  · rwa [Der.encode_eq] at hm
  · intro e v hev
    obtain ⟨x, rfl, rfl⟩ : ∃ x : Word, e = Der.content x.toNat ∧ v = x.toNat := by
      rcases hev with ⟨he, hv⟩ | ⟨he, hv⟩
      · exact ⟨_, he, hv⟩
      · exact ⟨_, he, hv⟩
    exact ⟨Der.content_length_le _, Der.intBE_content x.isLt, fun h => h ▸ Der.content_zero,
      fun _ _ => Der.content_head⟩

end Sys2Proof.Machine
end

section
/-!
PROOFS. The family 45_base58: the outcomes of the checked decoder (R236) and the commands B58CENC and B58CDEC (R237, R238).
-/

namespace Sys2Proof.Machine

namespace Base58

/-! ### The checked text and its decoder (R236) -/

theorem checksum_length (p : Bytes) : (checksum p).length = 4 := by simp [checksum]

/-- 183 bytes and their checksum are 187 bytes, the most that 256 characters hold for every string. -/
theorem checkEncode_length_le_of_le {p : Bytes} (h : p.length ≤ 183) : (checkEncode p).length ≤ 256 := by
  refine encode_length_le_of_pow_le ?_
  calc 256 ^ (p ++ checksum p).length
      ≤ 256 ^ 187 := Nat.pow_le_pow_right (by decide) (by rw [List.length_append, checksum_length]; omega)
    _ ≤ 58 ^ 256 := by decide

section
variable {t : Bytes}

theorem checkDecode_of_error {e : ErrCode} (h : decode t = .error e) : checkDecode t = .error e := by
  rw [checkDecode, h]

theorem checkDecode_of_short {d : Bytes} (h : decode t = .ok d) (hl : d.length < 4) :
    checkDecode t = .error .badLength := by
  rw [checkDecode, h]
  exact if_pos hl

theorem checkDecode_append {p chk : Bytes} (h : decode t = .ok (p ++ chk)) (hl : chk.length = 4) :
    checkDecode t = if checksum p = chk then .ok p else .error .b58Checksum := by
  have hp : (p ++ chk).length - 4 = p.length := by rw [List.length_append, hl, Nat.add_sub_cancel]
  have h4 : ¬ (p ++ chk).length < 4 := by rw [List.length_append]; omega
  rw [checkDecode, h]
  dsimp only
  rw [if_neg h4, hp, List.take_left, List.drop_left, ite_not]

end

end Base58

/-! ### What B58CDEC leaves -/

section
variable {s t : State} (ht : exec .b58cdec s = .next t)
include ht

theorem b58cdec_faulted {e : ErrCode} (h : Base58.checkDecode s.msg = .error e) : s.Faulted t e :=
  faulted_of_eq_raise ht (by rw [exec, execB58cdec, h, attempt_error, raise_eq])

theorem b58cdec_writesMsg (hw : s.bufCanonical) {p : Bytes} (h : Base58.checkDecode s.msg = .ok p) :
    s.WritesMsg t p := by
  have hlen : p.length ≤ 256 := calc
    p.length ≤ s.msg.length := Base58.checkDecode_length_le h
    _ = s.len.val := State.msg_length s
    _ ≤ 256 := Nat.le_of_lt_succ s.len.isLt
  exact writesMsg_of_eq_setMsg ht hw hlen (by rw [exec, execB58cdec, h, attempt_ok])

end

/-! ### The obligation -/

/-- Settles O58: B58CENC by `setText_writes`, and 187 bytes fit 256 characters; B58CDEC by one equation of the checked
decoder per outcome. -/
theorem base58CheckCommands : Obligations.Base58CheckCommands := by
  intro s hw
  obtain ⟨t, ht, hfits, hlong⟩ := setText_writes s hw (Base58.checkEncode s.msg)
  obtain ⟨u, hu⟩ := exec_next .b58cdec s
  refine ⟨⟨by decide, t, _, ht, rfl, hfits, hlong, fun hl => ?_⟩, by decide, u, hu, fun e he => ?_, fun d hd hl => ?_,
    fun p chk hd hl => ⟨fun hc => ?_, fun hc => ?_⟩⟩
  · exact Base58.checkEncode_length_le_of_le ((State.msg_length s).trans_le hl)
  · obtain rfl := b58dec_error he
    exact ⟨rfl, b58cdec_faulted hu (Base58.checkDecode_of_error he)⟩
  · exact b58cdec_faulted hu (Base58.checkDecode_of_short hd hl)
  · exact b58cdec_faulted hu ((Base58.checkDecode_append hd hl).trans (if_neg hc))
  · exact b58cdec_writesMsg hu hw ((Base58.checkDecode_append hd hl).trans (if_pos hc))

end Sys2Proof.Machine
end

section
/-!
PROOFS. The family 46_hash: the commands H256 and H160 (R250, R251).
-/

namespace Sys2Proof.Machine

section
variable {s t : State} (hw : s.bufCanonical)
include hw

theorem h256_writesMsg (ht : exec .h256 s = .next t) : s.WritesMsg t (hash256 s.msg) :=
  writesMsg_of_eq_setMsg ht hw (by rw [hash256_length]; decide) (by rw [exec, execH256])

theorem h160_writesMsg (ht : exec .h160 s = .next t) : s.WritesMsg t (hash160 s.msg) :=
  writesMsg_of_eq_setMsg ht hw (by rw [hash160_length]; decide) (by rw [exec, execH160])

end

/-! ### The obligation -/

/-- Settles O59: both digests fit the buffer, so `SetMsg` writes them, and `LEN` is the digest's length. -/
theorem hashCommands : Obligations.HashCommands := by
  intro s hw
  obtain ⟨t, ht⟩ := exec_next .h256 s
  obtain ⟨u, hu⟩ := exec_next .h160 s
  have h256 := h256_writesMsg hw ht
  have h160 := h160_writesMsg hw hu
  exact ⟨⟨by decide, t, ht, h256, h256.len.trans (hash256_length s.msg)⟩,
    by decide, u, hu, h160, h160.len.trans (hash160_length s.msg)⟩

end Sys2Proof.Machine
end

section
/-!
PROOFS. The family 60_exceptions: the return from a fault (R308) and the interrupt line (R311).
-/

namespace Sys2Proof.Machine

/-! ### The same command in two states that agree on the operands (R70)

A fault of a command depends on its operands alone: `X`, `P`, `BUF` and `LEN`. -/

/-- `t` with the operands of `s`: its `X`, `P`, `BUF` and `LEN`. -/
def State.withOperandsOf (t s : State) : State := { t with x := s.x, p := s.p, buf := s.buf, len := s.len }

/-- Two results, of a command in `s` and of one in `t`, that agree on the fault: both raise it, or both go on and raise
none, or both stop. -/
inductive SameFault (s t : State) : Result → Result → Prop
  | raise (e : ErrCode) : SameFault s t (.next (s.takeFault e)) (.next (t.takeFault e))
  | goesOn {s' t' : State} (hs : s'.err = s.err) (ht : t'.err = t.err) : SameFault s t (.next s') (.next t')
  | stop (f : Fault) : SameFault s t (.fault f) (.fault f)

section
variable {s t : State}

theorem SameFault.ite {c : Prop} [Decidable c] {a b a' b' : Result} (ha : SameFault s t a a')
    (hb : SameFault s t b b') : SameFault s t (if c then a else b) (if c then a' else b') := by
  split
  · exact ha
  · exact hb

theorem SameFault.attempt {α : Type} (r : Except ErrCode α) {k k' : α → Result} (h : ∀ a, SameFault s t (k a) (k' a)) :
    SameFault s t (attempt s r k) (attempt t r k') := by
  cases r with
  | ok a => exact h a
  | error e => exact .raise e

theorem SameFault.setMsg (bs : Bytes) : SameFault s t (setMsg s bs) (setMsg t bs) := by
  by_cases h : bs.length ≤ 256
  · rw [setMsg_eq s h, setMsg_eq t h]
    exact .goesOn rfl rfl
  · rw [Machine.setMsg, Machine.setMsg, dif_neg h, dif_neg h]
    exact .stop _

theorem SameFault.setText (bs : Bytes) : SameFault s t (setText s bs) (setText t bs) :=
  .ite (.raise _) (.setMsg bs)

/-- With a digest of the right length a round goes on, with an accepted candidate or with a retry. -/
theorem withNonce_goesOn {z : Nat} (hz : digestZ s.msg = .ok z) (d : Word) {accept : Nat → Nat → Result}
    (ha : ∀ z k, ∃ u, accept z k = .next u ∧ u.err = s.err) : ∃ u, withNonce s d accept = .next u ∧ u.err = s.err := by
  obtain ⟨hlen, -⟩ | ⟨z', l, -, -, ⟨-, e⟩ | ⟨-, e⟩⟩ := withNonce_cases s d accept
  · rw [digestZ, if_pos hlen] at hz
    cases hz
  · rw [e]
    exact ha _ _
  · exact ⟨_, e, rfl⟩

/-- A fault on one side is a fault on the other, if no fault was pending. -/
theorem SameFault.faulted {u : State} {r : Result} {e : ErrCode} (h : SameFault s t (.next u) r) (h0 : u.err ≠ s.err)
    (he : u.err = e.code) : ∃ v, r = .next v ∧ t.Faulted v e := by
  cases h with
  | raise e' => exact ⟨_, rfl, { takeFault_faulted t e' with err := he }⟩
  | goesOn hs _ => exact absurd hs h0

end

section
variable (s t : State)

theorem withWindow_sameFault (off : BitVec 8) (len : BitVec 6) {f g : Bytes → State} (hf : ∀ b, (f b).err = s.err)
    (hg : ∀ b, (g b).err = t.err) : SameFault s (t.withOperandsOf s) (withWindow s off len fun b => .next (f b))
      (withWindow (t.withOperandsOf s) off len fun b => .next (g b)) := by
  rw [withWindow_eq, withWindow_eq]
  exact .ite (.raise _) (.ite (.goesOn (hf _) (hg _)) (.raise _))

theorem execStbe_sameFault (rd : XReg) (off : BitVec 8) (len : BitVec 6) :
    SameFault s (t.withOperandsOf s) (execStbe rd off len s) (execStbe rd off len (t.withOperandsOf s)) := by
  by_cases hl : len.toNat ≤ 32
  · rw [execStbe_eq _ _ hl, execStbe_eq _ _ hl]
    exact .ite (.raise _) (.ite (.raise _) (.goesOn rfl rfl))
  · unfold execStbe
    rw [if_pos (by omega), if_pos (by omega)]
    exact .raise _

theorem coordinate_sameFault (rd : XReg) (rs1 : PReg) :
    SameFault s (t.withOperandsOf s) (execPgetx rd rs1 s) (execPgetx rd rs1 (t.withOperandsOf s)) ∧
    SameFault s (t.withOperandsOf s) (execPgety rd rs1 s) (execPgety rd rs1 (t.withOperandsOf s)) := by
  have hp : (t.withOperandsOf s).readP rs1 = s.readP rs1 := rfl
  unfold execPgetx execPgety
  rw [hp]
  cases s.readP rs1 with
  | inf => exact ⟨.raise _, .raise _⟩
  | pt x y => exact ⟨.goesOn rfl rfl, .goesOn rfl rfl⟩

/-- The candidate loops of the two states may differ: the only fault is that of the digest. -/
theorem withNonce_sameFault (d : Word) {f g : Nat → Nat → Result} (hf : ∀ z k, ∃ u, f z k = .next u ∧ u.err = s.err)
    (hg : ∀ z k, ∃ u, g z k = .next u ∧ u.err = t.err) :
    SameFault s (t.withOperandsOf s) (withNonce s d f) (withNonce (t.withOperandsOf s) d g) := by
  have hm : (t.withOperandsOf s).msg = s.msg := rfl
  cases hz : digestZ s.msg with
  | error e =>
    rw [withNonce, withNonce, hm, hz]
    exact .raise e
  | ok z =>
    obtain ⟨u, hu, hs⟩ := withNonce_goesOn hz d hf
    obtain ⟨v, hv, ht⟩ := withNonce_goesOn (s := t.withOperandsOf s) hz d hg
    rw [hu, hv]
    exact .goesOn hs ht

/-- R70 for faults: a command raises the same fault, or none, in all states with the same operands. The commands without
a case of their own complete in every state. -/
theorem exec_sameFault (i : Instr) :
    SameFault s (t.withOperandsOf s) (exec i s) (exec i (t.withOperandsOf s)) := by
  cases i <;> dsimp only [exec]
  case ldc rd imm16 =>
    unfold execLdc
    cases constant imm16.toNat with
    | some v => exact .goesOn rfl rfl
    | none => exact .raise _
  case setlen imm16 =>
    unfold execSetlen
    split
    · exact .goesOn rfl rfl
    · exact .raise _
  case ldbe => exact withWindow_sameFault s t _ _ (fun _ => rfl) fun _ => rfl
  case ldle => exact withWindow_sameFault s t _ _ (fun _ => rfl) fun _ => rfl
  case stbe => exact execStbe_sameFault s t _ _ _
  case finv => exact .ite (.raise _) (.goesOn rfl rfl)
  case fdiv => exact .ite (.raise _) (.goesOn rfl rfl)
  case pnew => exact .ite (.goesOn rfl rfl) (.raise _)
  case pgetx => exact (coordinate_sameFault s t _ _).1
  case pgety => exact (coordinate_sameFault s t _ _).2
  case secenc => exact .attempt _ .setMsg
  case secdec => exact .attempt _ fun _ => .goesOn rfl rfl
  case addr => exact .attempt _ fun _ => .setMsg _
  case wif => exact .setMsg _
  case nonce => exact withNonce_sameFault s t _ (fun _ _ => ⟨_, rfl, rfl⟩) fun _ _ => ⟨_, rfl, rfl⟩
  case sign => exact .ite (.raise _) (withNonce_sameFault s t _ (fun _ _ => ⟨_, rfl, rfl⟩) fun _ _ => ⟨_, rfl, rfl⟩)
  case verify => exact .attempt _ fun _ => .goesOn rfl rfl
  case derenc => exact .setMsg _
  case derdec => exact .ite (.raise _) (.attempt _ fun _ => .goesOn rfl rfl)
  case b58enc => exact .setText _
  case b58dec => exact .attempt _ .setMsg
  case b58cenc => exact .setText _
  case b58cdec => exact .attempt _ .setMsg
  case h256 => exact .setMsg _
  case h160 => exact .setMsg _
  all_goals exact .goesOn rfl rfl

end

/-! ### A command that faulted -/

theorem ErrCode.code_ne_zero (e : ErrCode) : e.code ≠ 0 := by
  cases e <;> decide

/-- Of the ways a command can end, only the fault entry changes `ERR`. -/
theorem Ends.eq_takeFault {i : Instr} {s t : State} (h : Ends i s (.next t)) (he : t.err ≠ s.err) :
    ∃ e, t = s.takeFault e := by
  cases h with
  | fault e => exact ⟨e, rfl⟩
  | _ => exact absurd rfl he

theorem exec_eq_takeFault {i : Instr} {s t : State} (h : exec i s = .next t) (he : t.err ≠ s.err) :
    ∃ e, t = s.takeFault e := by
  have : Fact Config.prime.Prime := ⟨prime_prime⟩
  exact Ends.eq_takeFault (h ▸ exec_ends i s) he

/-- After a fault, the return from it and another issue, the operands are those of before the fault. -/
theorem withOperandsOf_reissue (s : State) (e : ErrCode) (w : Word32) :
    ((s.takeFault e).clearFault.issue w).withOperandsOf s = (s.takeFault e).clearFault.issue w := rfl

/-! ### The interrupt line (R311) -/

section
variable {s : State}

theorem irq_of_done (h : s.done = true) : s.irq = s.ie := by
  rw [State.irq, h, Bool.and_true]

theorem irq_of_not_done (h : s.done = false) : s.irq = false := by
  rw [State.irq, h, Bool.and_false]

end

theorem windowWrite_cmd (s : State) (w : Word32) : s.windowWrite 0x000 w = s.writeCmd w := rfl

theorem writeCmd_of_no_fault {s : State} (h : s.err = 0) (w : Word32) : s.writeCmd w = s.issue w := if_pos h

theorem step_reset {s : State} {rest : List HostOp} (h : s.hostOps = .reset :: rest) :
    step s = .next { s with hostOps := rest }.hardReset := by
  rw [step, h]

/-! ### The obligations -/

/-- Settles O17: a command that ended has `DONE` set, and each host write by its register's rule. -/
theorem interruptLine : Obligations.InterruptLine := by
  refine ⟨fun s => Bool.and_eq_true_iff, fun s t h => (irq_of_done h.done).trans h.ie,
    fun s t e h => (irq_of_done h.done).trans h.ie,
    fun s t w rest hb ht => ⟨fun h => ?_, fun h hw => ?_, fun h he => ?_⟩, fun s t rest h ht => ?_⟩
  · cases (controlRegister.2 s w rest h hb).symm.trans ht
    rfl
  · cases (statusRegister.2 s w rest h hb).symm.trans ht
    exact irq_of_not_done (by rw [hw, Bool.not_true, Bool.and_false])
  · rw [step_write_idle h rfl hb, windowWrite_cmd, writeCmd_of_no_fault (s := { s with hostOps := rest }) he] at ht
    cases ht
    exact irq_of_not_done rfl
  · cases (step_reset h).symm.trans ht
    exact irq_of_not_done rfl

/-- Settles O18: the write of `CTRL` by its register's rule, in a state `Faulted` describes; the retry by
`exec_sameFault`, for `takeFault` keeps the operands. -/
theorem returnFromFault : Obligations.ReturnFromFault := by
  intro s t i e h0 ht hf
  have hne : t.err ≠ s.err := by
    rw [hf.err, h0]
    exact e.code_ne_zero
  refine ⟨fun w rest hie hclr => ⟨_, controlRegister.2 _ w rest rfl hf.busy, if_pos hclr, hf.ecmd, hf.done, hf.busy,
    hie, hf.cmd, hf.x, hf.p, hf.bytes, hf.len⟩, ?_⟩
  obtain ⟨e', rfl⟩ := exec_eq_takeFault ht hne
  have hsame := exec_sameFault s ((s.takeFault e').clearFault.issue s.cmd) i
  rw [withOperandsOf_reissue, ht] at hsame
  exact hsame.faulted hne hf.err

end Sys2Proof.Machine
end

section
/-!
PROOFS. The rules of the whole machine: what every step answers (R315), how a command ends (R303), what its outcome
depends on (R70), and the invariants that every step keeps (R25, R35, R203, R302, R309).
-/

namespace Sys2Proof.Machine

open Sys2Proof.Config (prime)

/-! ### Every step answers a next state (R315) -/

theorem coreStep_next (s : State) : ∃ t, coreStep s = .next t := by
  have : Fact prime.Prime := ⟨prime_prime⟩
  obtain ⟨-, i, -, e, -⟩ | ⟨-, e⟩ | ⟨-, e⟩ := coreStep_cases s
  · rw [e]
    exact exec_next i s
  · exact ⟨_, e⟩
  · exact ⟨_, e⟩

/-- Settles O6: a host access and the reset event are next states by themselves, the core's move by `coreStep_next`. -/
theorem everyStepAnswersANextState : Obligations.EveryStepAnswersANextState := by
  intro s
  obtain ⟨ops, e⟩ | ⟨ops, r, n, e⟩ | ⟨ops, t, r, e, -⟩ | ⟨ops, e⟩ := step_cases s
  · rw [State.goesOn, e]
    exact coreStep_next _
  · exact ⟨_, e⟩
  · exact ⟨_, e⟩
  · exact ⟨_, e⟩

/-! ### How a command ends (R303, R305) -/

theorem exec_ends_next {i : Instr} {s t : State} (h : exec i s = .next t) : Ends i s (.next t) := by
  have : Fact prime.Prime := ⟨prime_prime⟩
  exact h ▸ exec_ends i s

section
variable {i : Instr} {s t : State} (h : Ends i s (.next t))
include h

/-- The three outcomes of R303: completion, a fault, or one more round of the candidate loop. -/
theorem Ends.outcome : s.Completed t ∨ (∃ e, mayRaise i e ∧ s.Faulted t e) ∨
    (loops i = true ∧ ∃ l, t = { s with nonceLoop := some l }) := by
  cases h with
  | fault e he => exact .inr (.inl ⟨e, he, takeFault_faulted s e⟩)
  | loop l hi => exact .inr (.inr ⟨hi, l, rfl⟩)
  | _ => exact .inl ⟨⟨rfl, rfl, rfl, rfl, rfl⟩, rfl, rfl, rfl, rfl, rfl⟩

theorem Ends.sameHostSide : s.SameHostSide t := by
  obtain h | ⟨e, -, h⟩ | ⟨-, l, rfl⟩ := h.outcome
  · exact h.toSameHostSide
  · exact h.toSameHostSide
  · exact ⟨rfl, rfl, rfl, rfl, rfl⟩

end

theorem errorsOf_of_mayRaise {i : Instr} {e : ErrCode} (hi : i.wellFormed = true) (h : mayRaise i e) :
    e ∈ errorsOf i :=
  h.resolve_right fun hn => by simp [hi] at hn

/-- Settles O19: `Ends.outcome`; a well-formed command raises none but its own faults. -/
theorem faultsOfEachCommand : Obligations.FaultsOfEachCommand := by
  intro i s hi
  obtain ⟨t, ht⟩ := exec_next i s
  refine ⟨t, ht, ?_⟩
  obtain h | ⟨e, he, h⟩ | h := (exec_ends_next ht).outcome
  · exact .inl h
  · exact .inr (.inl ⟨e, errorsOf_of_mayRaise hi he, h⟩)
  · exact .inr (.inr h)

/-- Settles O21: each way a command can end leaves the host's side as it was. -/
theorem commandsKeepTheHostSide : Obligations.CommandsKeepTheHostSide :=
  fun _ _ _ h => (exec_ends_next h).sameHostSide

/-! ### What a command's outcome depends on (R70) -/

/-- `t` with all that a command reads of `s`: its operands and its candidate loop. -/
def State.withInputsOf (t s : State) : State := { t.withOperandsOf s with nonceLoop := s.nonceLoop }

theorem withInputsOf_eq_self {s t : State} (hx : s.x = t.x) (hp : s.p = t.p) (hb : s.buf = t.buf) (hl : s.len = t.len)
    (hn : s.nonceLoop = t.nonceLoop) : t.withInputsOf s = t := by
  rw [State.withInputsOf, State.withOperandsOf, hx, hp, hb, hl, hn]

/-- Two results, of a command in `s` and of one in `t`, that agree on the operands they leave: both raise one fault, or
both go on with their own fault records, or both stop. -/
inductive SameEnd (s t : State) : Result → Result → Prop
  | raise (e : ErrCode) : SameEnd s t (.next (s.takeFault e)) (.next (t.takeFault e))
  | goesOn {u v : State} (huv : v.withInputsOf u = v) (hu : u.err = s.err ∧ u.ecmd = s.ecmd)
      (hv : v.err = t.err ∧ v.ecmd = t.ecmd) : SameEnd s t (.next u) (.next v)
  | stop (f : Fault) : SameEnd s t (.fault f) (.fault f)

section
variable {s t : State}

theorem SameEnd.ite {c : Prop} [Decidable c] {a b a' b' : Result} (ha : SameEnd s t a a') (hb : SameEnd s t b b') :
    SameEnd s t (if c then a else b) (if c then a' else b') := by
  split
  · exact ha
  · exact hb

theorem SameEnd.attempt {α : Type} (r : Except ErrCode α) {k k' : α → Result} (h : ∀ a, SameEnd s t (k a) (k' a)) :
    SameEnd s t (attempt s r k) (attempt t r k') := by
  cases r with
  | ok a => exact h a
  | error e => exact .raise e


end

section
variable (s t : State)

theorem setMsg_sameEnd (bs : Bytes) : SameEnd s (t.withInputsOf s) (setMsg s bs) (setMsg (t.withInputsOf s) bs) := by
  by_cases h : bs.length ≤ 256
  · rw [setMsg_eq _ h, setMsg_eq _ h]
    exact .goesOn rfl ⟨rfl, rfl⟩ ⟨rfl, rfl⟩
  · rw [setMsg, setMsg, dif_neg h, dif_neg h]
    exact .stop _

theorem setText_sameEnd (bs : Bytes) : SameEnd s (t.withInputsOf s) (setText s bs) (setText (t.withInputsOf s) bs) :=
  .ite (.raise _) (setMsg_sameEnd s t bs)

theorem withWindow_sameEnd (off : BitVec 8) (len : BitVec 6) {k k' : Bytes → Result}
    (h : ∀ b, SameEnd s (t.withInputsOf s) (k b) (k' b)) :
    SameEnd s (t.withInputsOf s) (withWindow s off len k) (withWindow (t.withInputsOf s) off len k') := by
  rw [withWindow_eq, withWindow_eq]
  exact .ite (.raise _) (.ite (h _) (.raise _))

/-- The two states have one digest and one candidate, so the round goes the same way in both. -/
theorem withNonce_sameEnd (d : Word) {accept accept' : Nat → Nat → Result}
    (h : ∀ z k, SameEnd s (t.withInputsOf s) (accept z k) (accept' z k)) :
    SameEnd s (t.withInputsOf s) (withNonce s d accept) (withNonce (t.withInputsOf s) d accept') :=
  .attempt (digestZ s.msg) fun _ => .ite (h _ _) (.goesOn rfl ⟨rfl, rfl⟩ ⟨rfl, rfl⟩)

theorem execStbe_sameEnd (rd : XReg) (off : BitVec 8) (len : BitVec 6) :
    SameEnd s (t.withInputsOf s) (execStbe rd off len s) (execStbe rd off len (t.withInputsOf s)) := by
  by_cases hl : len.toNat ≤ 32
  · rw [execStbe_eq _ _ hl, execStbe_eq _ _ hl]
    exact .ite (.raise _) (.ite (.raise _) (.goesOn rfl ⟨rfl, rfl⟩ ⟨rfl, rfl⟩))
  · unfold execStbe
    rw [if_pos (by omega), if_pos (by omega)]
    exact .raise _

theorem coordinate_sameEnd (rd : XReg) (rs1 : PReg) :
    SameEnd s (t.withInputsOf s) (execPgetx rd rs1 s) (execPgetx rd rs1 (t.withInputsOf s)) ∧
    SameEnd s (t.withInputsOf s) (execPgety rd rs1 s) (execPgety rd rs1 (t.withInputsOf s)) := by
  have hp : (t.withInputsOf s).readP rs1 = s.readP rs1 := rfl
  unfold execPgetx execPgety
  rw [hp]
  cases s.readP rs1 with
  | inf => exact ⟨.raise _, .raise _⟩
  | pt x y => exact ⟨.goesOn rfl ⟨rfl, rfl⟩ ⟨rfl, rfl⟩, .goesOn rfl ⟨rfl, rfl⟩ ⟨rfl, rfl⟩⟩

theorem finishX_sameEnd (rd : XReg) (v : Word) :
    SameEnd s (t.withInputsOf s) (finishX s rd v) (finishX (t.withInputsOf s) rd v) :=
  .goesOn rfl ⟨rfl, rfl⟩ ⟨rfl, rfl⟩

theorem finishP_sameEnd (rd : PReg) (q : Point) :
    SameEnd s (t.withInputsOf s) (finishP s rd q) (finishP (t.withInputsOf s) rd q) :=
  .goesOn rfl ⟨rfl, rfl⟩ ⟨rfl, rfl⟩

theorem finishTwoX_sameEnd (rd rs3 : XReg) (v w : Word) : SameEnd s (t.withInputsOf s)
    (finishX (s.writeX rd v) rs3 w) (finishX ((t.withInputsOf s).writeX rd v) rs3 w) :=
  .goesOn rfl ⟨rfl, rfl⟩ ⟨rfl, rfl⟩

/-- R70: what a command answers is a function of what it reads. The commands without a case of their own write one X
register in every state. -/
theorem exec_sameEnd (i : Instr) : SameEnd s (t.withInputsOf s) (exec i s) (exec i (t.withInputsOf s)) := by
  cases i <;> dsimp only [exec]
  case nop => exact .goesOn rfl ⟨rfl, rfl⟩ ⟨rfl, rfl⟩
  case ldc rd imm16 =>
    unfold execLdc
    cases constant imm16.toNat with
    | some v => exact finishX_sameEnd s t _ _
    | none => exact .raise _
  case setlen imm16 =>
    unfold execSetlen
    split
    · exact .goesOn rfl ⟨rfl, rfl⟩ ⟨rfl, rfl⟩
    · exact .raise _
  case ldbe => exact withWindow_sameEnd s t _ _ fun _ => finishX_sameEnd s t _ _
  case ldle => exact withWindow_sameEnd s t _ _ fun _ => finishX_sameEnd s t _ _
  case stbe => exact execStbe_sameEnd s t _ _ _
  case finv => exact .ite (.raise _) (finishX_sameEnd s t _ _)
  case fdiv => exact .ite (.raise _) (finishX_sameEnd s t _ _)
  case pnew => exact .ite (finishP_sameEnd s t _ _) (.raise _)
  case pinf => exact finishP_sameEnd s t _ _
  case pldg => exact finishP_sameEnd s t _ _
  case pmov => exact finishP_sameEnd s t _ _
  case padd => exact finishP_sameEnd s t _ _
  case pmul => exact finishP_sameEnd s t _ _
  case pgetx => exact (coordinate_sameEnd s t _ _).1
  case pgety => exact (coordinate_sameEnd s t _ _).2
  case keygen => exact finishP_sameEnd s t _ _
  case secenc => exact .attempt _ (setMsg_sameEnd s t)
  case secdec => exact .attempt _ (finishP_sameEnd s t _)
  case addr => exact .attempt _ fun _ => setMsg_sameEnd s t _
  case wif => exact setMsg_sameEnd s t _
  case nonce => exact withNonce_sameEnd s t _ fun _ _ => finishX_sameEnd s t _ _
  case sign => exact .ite (.raise _) (withNonce_sameEnd s t _ fun _ _ => finishTwoX_sameEnd s t _ _ _ _)
  case verify => exact .attempt _ fun _ => finishX_sameEnd s t _ _
  case derenc => exact setMsg_sameEnd s t _
  case derdec => exact .ite (.raise _) (.attempt _ fun _ => finishTwoX_sameEnd s t _ _ _ _)
  case b58enc => exact setText_sameEnd s t _
  case b58dec => exact .attempt _ (setMsg_sameEnd s t)
  case b58cenc => exact setText_sameEnd s t _
  case b58cdec => exact .attempt _ (setMsg_sameEnd s t)
  case h256 => exact setMsg_sameEnd s t _
  case h160 => exact setMsg_sameEnd s t _
  all_goals exact finishX_sameEnd s t _ _

end

/-- Settles O20: the second state is itself with the inputs of the first, and `exec_sameEnd` compares the two ends. -/
theorem commandsDependOnOperandsOnly : Obligations.CommandsDependOnOperandsOnly := by
  intro i s s' hx hp hb hl hn
  have hend := exec_sameEnd s s' i
  rw [withInputsOf_eq_self hx hp hb hl hn] at hend
  obtain ⟨t, ht⟩ := exec_next i s
  obtain ⟨t', ht'⟩ := exec_next i s'
  refine ⟨t, t', ht, ht', ?_⟩
  rw [ht, ht'] at hend
  cases hend with
  | raise e => exact ⟨hx, hp, hb, hl, rfl, .inr ⟨rfl, rfl, rfl⟩⟩
  | goesOn huv hu hv =>
    rw [← huv]
    exact ⟨rfl, rfl, rfl, rfl, rfl, .inl ⟨hu.1, hv.1, hu.2, hv.2⟩⟩

/-! ### Invariants of every step -/

/-- Every step keeps a predicate that does not look at the host's side, holds after reset, and is kept by every way a
command can end and by every host write. -/
theorem step_keeps {P : State → Prop} (hhost : ∀ s ops r n, P s → P { s with hostOps := ops, reply := r, draws := n })
    (hcore : ∀ i s t, s.busy = true → P s → Ends i s (.next t) → P t)
    (hillegal : ∀ s, P s → P (s.takeFault .illegalCmd)) (hwrite : ∀ s t, P s → Written s t → P t)
    (hreset : P State.reset) {s t : State} (hs : P s) (h : step s = .next t) : P t := by
  have : Fact prime.Prime := ⟨prime_prime⟩
  have hops : ∀ ops, P { s with hostOps := ops } := fun ops => hhost s ops s.reply s.draws hs
  obtain ⟨ops, e⟩ | ⟨ops, r, n, e⟩ | ⟨ops, u, r, e, hu⟩ | ⟨ops, e⟩ := step_cases s
  · rw [e] at h
    obtain ⟨hb, i, -, -, he⟩ | ⟨-, e⟩ | ⟨-, e⟩ := coreStep_cases { s with hostOps := ops }
    · rw [h] at he
      exact hcore i _ t hb (hops ops) he
    · cases e.symm.trans h
      exact hillegal _ (hops ops)
    · cases e.symm.trans h
      exact hops ops
  · cases e.symm.trans h
    exact hhost s ops r n hs
  · cases e.symm.trans h
    exact hhost u u.hostOps r u.draws (hwrite _ _ (hops ops) hu)
  · cases e.symm.trans h
    exact hhost State.reset ops .none s.draws hreset

/-! ### The status bits and the candidate loop (R35, R203, R309) -/

theorem statusOk_of_idle {s : State} (hb : s.busy = false) (hn : s.nonceLoop = none) : s.statusOk := by
  simp [State.statusOk, hb, hn]

theorem nonceLoopOk_of_none {s : State} (hn : s.nonceLoop = none) : s.nonceLoopOk := by
  simp [State.nonceLoopOk, hn]

/-- A command that ended is no longer busy and has no loop; one that goes on has a loop of 32-byte strings. -/
theorem Ends.control {i : Instr} {s t : State} (h : Ends i s (.next t)) : (t.busy = false ∧ t.nonceLoop = none) ∨
    ∃ l : NonceLoop, t = { s with nonceLoop := some l } ∧ l.k.length = 32 ∧ l.v.length = 32 := by
  cases h with
  | loop l _ hk hv => exact .inr ⟨l, rfl, hk, hv⟩
  | _ => exact .inl ⟨rfl, rfl⟩

theorem Ends.statusOk {i : Instr} {s t : State} (hb : s.busy = true) (hs : s.statusOk) (h : Ends i s (.next t)) :
    t.statusOk := by
  obtain ⟨hb', hn⟩ | ⟨l, rfl, -⟩ := h.control
  · exact statusOk_of_idle hb' hn
  · exact ⟨hs.1, hs.2.1, fun _ => hb⟩

theorem Ends.nonceLoopOk {i : Instr} {s t : State} (h : Ends i s (.next t)) : t.nonceLoopOk := by
  obtain ⟨-, hn⟩ | ⟨l, rfl, hk, hv⟩ := h.control
  · exact nonceLoopOk_of_none hn
  · intro l' e
    cases e
    exact ⟨hk, hv⟩

/-- A write to `CMD` issues a command only where no fault is pending, and `CLRERR` acts only on an idle core. -/
theorem Written.statusOk {s t : State} (hs : s.statusOk) (h : Written s t) : t.statusOk := by
  obtain ⟨hbd, hbe, hn⟩ := hs
  cases h with
  | issue w hb he => exact ⟨by simp, fun _ => he, by simp⟩
  | clearDone => exact ⟨by simp, hbe, hn⟩
  | clearFault ie hb => exact ⟨hbd, fun _ => rfl, hn⟩
  | _ => exact ⟨hbd, hbe, hn⟩

theorem Written.nonceLoopOk {s t : State} (hs : s.nonceLoopOk) (h : Written s t) : t.nonceLoopOk := by
  cases h with
  | issue => exact nonceLoopOk_of_none rfl
  | _ => exact hs

/-- Settles O25: `step_keeps`, with `Ends.control` for the commands and `Written` for the host's writes. -/
theorem statusStaysLegal : Obligations.StatusStaysLegal :=
  ⟨fun _ _ => step_keeps (P := State.statusOk) (fun _ _ _ _ h => h) (fun _ _ _ => Ends.statusOk)
      (fun _ _ => statusOk_of_idle rfl rfl) (fun _ _ => Written.statusOk) (statusOk_of_idle rfl rfl),
    fun _ _ => step_keeps (P := State.nonceLoopOk) (fun _ _ _ _ h => h) (fun _ _ _ _ _ => Ends.nonceLoopOk)
      (fun _ _ => nonceLoopOk_of_none rfl) (fun _ _ => Written.nonceLoopOk) (nonceLoopOk_of_none rfl)⟩

/-! ### The canonical buffer -/

theorem Ends.bufCanonical {i : Instr} {s t : State} (hs : s.bufCanonical) (h : Ends i s (.next t)) :
    t.bufCanonical := by
  cases h with
  | bytes k bs hk => exact Memory.writeBytes_wf hs hk
  | msg bs hl => exact Memory.writeBytes_wf hs (by omega)
  | _ => exact hs

theorem Written.bufCanonical {s t : State} (hs : s.bufCanonical) (h : Written s t) : t.bufCanonical := by
  cases h with
  | bytes k bs hk => exact Memory.writeBytes_wf hs hk
  | _ => exact hs

/-- Settles O24: every store is a string inside the buffer, and `writeBytes_wf` keeps the canonical form. -/
theorem bufferStaysCanonical : Obligations.BufferStaysCanonical :=
  fun _ _ => step_keeps (P := State.bufCanonical) (fun _ _ _ _ h => h) (fun _ _ _ _ => Ends.bufCanonical)
    (fun _ h => h) (fun _ _ => Written.bufCanonical) Memory.reset_wf

/-! ### The codes in `ERR` (R301, R302) -/

theorem reserved_not_mem_errorsOf (i : Instr) : .curveMismatch ∉ errorsOf i ∧ .fieldRange ∉ errorsOf i := by
  cases i <;> simp [errorsOf]

theorem ne_reserved_of_mayRaise {i : Instr} {e : ErrCode} (h : mayRaise i e) :
    e ≠ .curveMismatch ∧ e ≠ .fieldRange := by
  obtain h | ⟨-, rfl⟩ := h
  · obtain ⟨hc, hf⟩ := reserved_not_mem_errorsOf i
    exact ⟨fun e => hc (e ▸ h), fun e => hf (e ▸ h)⟩
  · decide

theorem errPossible_takeFault (s : State) {e : ErrCode} (h : e ≠ .curveMismatch ∧ e ≠ .fieldRange) :
    (s.takeFault e).errPossible :=
  .inr ⟨e, rfl, h⟩

theorem Ends.errPossible {i : Instr} {s t : State} (hs : s.errPossible) (h : Ends i s (.next t)) : t.errPossible := by
  cases h with
  | fault e he => exact errPossible_takeFault s (ne_reserved_of_mayRaise he)
  | _ => exact hs

theorem Written.errPossible {s t : State} (hs : s.errPossible) (h : Written s t) : t.errPossible := by
  cases h with
  | clearFault => exact .inl rfl
  | _ => exact hs

/-- The numbers of the codes that are raised (R301, R302). -/
theorem code_mem_of_not_reserved {e : ErrCode} (h : e ≠ .curveMismatch ∧ e ≠ .fieldRange) : e.code.toNat ∈
    [0x00, 0x01, 0x03, 0x04, 0x05, 0x06, 0x07, 0x08, 0x10, 0x11, 0x12, 0x13, 0x14, 0x15, 0x16] := by
  cases e with
  | curveMismatch => exact absurd rfl h.1
  | fieldRange => exact absurd rfl h.2
  | _ => decide

/-- Settles O26: a fault entry is the only write of a code, and no command raises a reserved one. -/
theorem errorCodesStayPossible : Obligations.ErrorCodesStayPossible := by
  refine ⟨fun _ _ => step_keeps (P := State.errPossible) (fun _ _ _ _ h => h) (fun _ _ _ _ => Ends.errPossible)
    (fun s _ => errPossible_takeFault s (by decide)) (fun _ _ => Written.errPossible) (.inl rfl), fun s h => ?_⟩
  obtain h | ⟨e, he, hne⟩ := h
  · rw [h]
    decide
  · rw [he]
    exact code_mem_of_not_reserved hne

/-- Settles O22: the registers are `Inf`, the buffer is empty, no fault is recorded and nothing runs. -/
theorem resetMeetsInvariant : Obligations.ResetMeetsInvariant where
  pointsValid := pointsValid_reset
  bufCanonical := Memory.reset_wf
  errPossible := .inl rfl
  statusOk := statusOk_of_idle rfl rfl
  nonceLoopOk := nonceLoopOk_of_none rfl

/-- Settles O16: the reset event is one step to `hardReset`, whatever the state is. -/
theorem resetEndsAnyCommand : Obligations.ResetEndsAnyCommand := fun _ _ h =>
  ⟨_, step_reset h, rfl, State.readX_reset, State.readP_reset, fun _ => rfl, rfl, rfl, rfl, rfl, rfl, rfl,
    rfl, rfl, rfl, rfl, rfl⟩

end Sys2Proof.Machine
end

section
/-!
PROOFS. The codec of command words as a whole (30_encoding R70 to R78): decoding and encoding are inverse to each
other on the legal words, and every other word is rejected.
-/

namespace Sys2Proof.Machine

open Sys2Proof.Laws.Opcode (number number_eq)

/-! ### The remaining words (R76) -/

theorem distinct_of_wellFormed {i : Instr} (h : i.wellFormed = true) : distinct i = .ok i := if_pos h

theorem decode_pmul (rd rs1 : PReg) (rs2 : XReg) : decode (formatR 0x26 rd rs1 rs2 0 0) = .ok (.pmul rd rs1 rs2) :=
  decode_formatR_of_threeFields (by decide) (pointField rd) (pointField rs1) rs2 fun w hop hz hd h1 h2 => by
    simp only [decode, hop, zeros_singleton hz, pField_bind_of_xField hd, pField_bind_of_xField h1, h2]

theorem decode_nonce (rd rs1 : XReg) : decode (formatR 0x40 rd rs1 0 0 0) = .ok (.nonce rd rs1) :=
  decode_formatR_oneSource (by decide) rd rs1 fun w h => by simp only [decode, h]

theorem decode_sign (rd rs3 rs1 : XReg) : decode (formatR 0x41 rd rs1 0 rs3 0) = distinct (.sign rd rs3 rs1) :=
  decode_formatR_of_fourFields (by decide) rd rs1 0 rs3 fun w hop hz hd h1 h2 h3 => by
    simp only [decode, hop, zeros_pair (bits_eq_zero_of_xField h2) hz, hd, h1, h3]

/-- Two neighbouring fields that are 0 are 0 together. -/
theorem bits_rs1_rs2_eq_zero {w : Word32} (h1 : xField w 12 = 0) (h2 : xField w 16 = 0) : bits w 19 12 = 0 := by
  have h1 := bits_eq_zero_of_xField h1
  have h2 := bits_eq_zero_of_xField h2
  simp only [bits] at h1 h2 ⊢
  omega

theorem decode_derdec (rd rs3 : XReg) : decode (formatR 0x44 rd 0 0 rs3 0) = distinct (.derdec rd rs3) :=
  decode_formatR_of_fourFields (by decide) rd 0 0 rs3 fun w hop hz hd h1 h2 h3 => by
    simp only [decode, hop, zeros_pair (bits_rs1_rs2_eq_zero h1 h2) hz, hd, h3]

/-- Settles O1: the lemma of `decode` for each word; the checks of cases (d) and (e) are well-formedness. -/
theorem decodeOfEncode : Obligations.DecodeOfEncode := by
  intro i hi
  cases i with
  | nop => decide
  | li => exact decode_li _ _
  | ldc => exact (decode_ldc _ _).trans (ranged_of_wellFormed hi)
  | mov => exact decode_mov _ _
  | setlen => exact (decode_setlen _).trans (ranged_of_wellFormed hi)
  | getlen => exact decode_getlen _
  | ldbe => exact (decode_ldbe _ _ _).trans (ranged_of_wellFormed hi)
  | ldle => exact (decode_ldle _ _ _).trans (ranged_of_wellFormed hi)
  | stbe => exact (decode_stbe _ _ _).trans (ranged_of_wellFormed hi)
  | fred => exact decode_fred _ _
  | fadd => exact decode_fadd _ _ _
  | fsub => exact decode_fsub _ _ _
  | fneg => exact decode_fneg _ _
  | fmul => exact decode_fmul _ _ _
  | finv => exact decode_finv _ _
  | fdiv => exact decode_fdiv _ _ _
  | fpow => exact decode_fpow _ _ _ _
  | fsqrt => exact decode_fsqrt _ _
  | fisz => exact decode_fisz _ _
  | feq => exact decode_feq _ _ _
  | pcont => exact decode_pcont _ _ _
  | pnew => exact decode_pnew _ _ _
  | pinf => exact decode_pinf _
  | pldg => exact decode_pldg _
  | pmov => exact decode_pmov _ _
  | padd => exact decode_padd _ _ _
  | pmul => exact decode_pmul _ _ _
  | peq => exact decode_peq _ _ _
  | pisinf => exact decode_pisinf _ _
  | pgetx => exact decode_pgetx _ _
  | pgety => exact decode_pgety _ _
  | keygen => exact decode_keygen _ _
  | secenc => exact decode_secenc _ _
  | secdec => exact decode_secdec _
  | addr => exact decode_addr _ _ _
  | wif => exact decode_wif _ _ _
  | nonce => exact decode_nonce _ _
  | sign => exact (decode_sign _ _ _).trans (distinct_of_wellFormed hi)
  | verify => exact decode_verify _ _ _ _
  | derenc => exact decode_derenc _ _
  | derdec => exact (decode_derdec _ _).trans (distinct_of_wellFormed hi)
  | b58enc => decide
  | b58dec => decide
  | b58cenc => decide
  | b58cdec => decide
  | h256 => decide
  | h160 => decide

/-! ### What the checks of the decoder say of a word that passes them (R77) -/

section
variable {w : Word32} {i j : Instr} {r : Except DecodeError Instr}

theorem zeros_ok {zs : List (Nat × Nat)} (h : zeros w zs r = .ok i) :
    (∀ z ∈ zs, bits w z.1 z.2 = 0) ∧ r = .ok i := by
  unfold zeros at h
  split at h
  · rename_i hz
    exact ⟨by simpa using hz, h⟩
  · cases h

theorem zeros_one_ok {a b : Nat} (h : zeros w [(a, b)] r = .ok i) : bits w a b = 0 ∧ r = .ok i := by
  simpa using zeros_ok h

theorem zeros_two_ok {a b c d : Nat} (h : zeros w [(a, b), (c, d)] r = .ok i) :
    bits w a b = 0 ∧ bits w c d = 0 ∧ r = .ok i := by
  simpa [and_assoc] using zeros_ok h

theorem zeros_three_ok {a b c d e f : Nat} (h : zeros w [(a, b), (c, d), (e, f)] r = .ok i) :
    bits w a b = 0 ∧ bits w c d = 0 ∧ bits w e f = 0 ∧ r = .ok i := by
  simpa [and_assoc] using zeros_ok h

theorem ranged_ok (h : ranged j = .ok i) : i.wellFormed = true ∧ j = i := by
  unfold ranged at h
  split at h <;> cases h
  exact ⟨‹_›, rfl⟩

theorem distinct_ok (h : distinct j = .ok i) : i.wellFormed = true ∧ j = i := by
  unfold distinct at h
  split at h <;> cases h
  exact ⟨‹_›, rfl⟩

theorem pField_bind_ok {lo : Nat} {k : PReg → Except DecodeError Instr} (h : (pField w lo >>= k) = .ok i) :
    ∃ p : PReg, p.val = bits w (lo + 3) lo ∧ k p = .ok i := by
  unfold pField at h
  split at h
  · exact ⟨_, rfl, h⟩
  · cases h

end

/-! ### The fields of a word and the word again (R72 to R74) -/

section
variable (w : Word32)

theorem xField_val (lo : Nat) : (xField w lo).val = bits w (lo + 3) lo := by
  have hlt : bits w (lo + 3) lo < 16 := by
    rw [bits, show lo + 3 - lo + 1 = 4 by omega]
    exact Nat.mod_lt _ (by decide)
  exact Nat.mod_eq_of_lt hlt

theorem flagField_toNat (n : Nat) : (flagField w n).toNat = bits w n n := by
  have hlt : bits w n n < 2 := by
    rw [bits, Nat.sub_self]
    exact Nat.mod_lt _ (by decide)
  unfold flagField
  interval_cases bits w n n <;> rfl

theorem imm16Field_toNat : (imm16Field w).toNat = bits w 31 16 := by
  simp only [imm16Field, bits, BitVec.toNat_ofNat]
  omega

theorem lenField_toNat : (lenField w).toNat = bits w 17 12 := by
  simp only [lenField, bits, BitVec.toNat_ofNat]
  omega

theorem offField_toNat : (offField w).toNat = bits w 31 24 := by
  simp only [offField, bits, BitVec.toNat_ofNat]
  omega

variable {w} {op : Nat} (hop : bits w 7 0 = op)
include hop

/-- A word is the word of its six fields. -/
theorem formatR_eq {rd rs1 rs2 rs3 fl : Nat} (hd : rd = bits w 11 8) (h1 : rs1 = bits w 15 12)
    (h2 : rs2 = bits w 19 16) (h3 : rs3 = bits w 23 20) (hf : fl = bits w 31 24) :
    formatR op rd rs1 rs2 rs3 fl = w := by
  subst hop hd h1 h2 h3 hf
  apply BitVec.eq_of_toNat_eq
  simp only [formatR, bits, BitVec.toNat_ofNat]
  omega

theorem formatI_eq {rd imm16 : Nat} (hz : bits w 15 12 = 0) (hd : rd = bits w 11 8) (hi : imm16 = bits w 31 16) :
    formatI op rd imm16 = w := by
  subst hop hd hi
  apply BitVec.eq_of_toNat_eq
  simp only [formatI, bits, BitVec.toNat_ofNat] at hz ⊢
  omega

theorem formatM_eq {rd len off : Nat} (hz : bits w 23 18 = 0) (hd : rd = bits w 11 8) (hl : len = bits w 17 12)
    (ho : off = bits w 31 24) : formatM op rd len off = w := by
  subst hop hd hl ho
  apply BitVec.eq_of_toNat_eq
  simp only [formatM, bits, BitVec.toNat_ofNat] at hz ⊢
  omega

end

/-- A part of a range of bits that holds 0 holds 0. -/
theorem bits_eq_zero_of_le {w : Word32} {hi lo hi' lo' : Nat} (h : bits w hi lo = 0) (hl : lo ≤ lo' := by decide)
    (hh : hi' ≤ hi := by decide) (hlh : lo' ≤ hi' := by decide) : 0 = bits w hi' lo' := by
  unfold bits at h ⊢
  obtain ⟨d, rfl⟩ := Nat.exists_eq_add_of_le hl
  have hdvd : 2 ^ (hi' - (lo + d) + 1) ∣ 2 ^ (hi - lo + 1) / 2 ^ d := by
    rw [Nat.pow_div (by omega) (by decide)]
    exact Nat.pow_dvd_pow 2 (by omega)
  have hpow : 2 ^ (hi - lo + 1) = 2 ^ d * (2 ^ (hi - lo + 1) / 2 ^ d) := by
    rw [Nat.pow_div (by omega) (by decide), ← Nat.pow_add]
    congr 1
    omega
  have hq : w.toNat / 2 ^ lo / 2 ^ d % (2 ^ (hi - lo + 1) / 2 ^ d) = 0 := by
    rw [← Nat.mod_mul_right_div_self, ← hpow, h, Nat.zero_div]
  rw [Nat.pow_add, ← Nat.div_div_eq_div_mul]
  exact ((Nat.mod_mod_of_dvd _ hdvd).symm.trans (by rw [hq, Nat.zero_mod])).symm

/-! ### Words with unused fields -/

section
variable {w : Word32} {op : Nat} (hop : bits w 7 0 = op) {rd rs1 rs2 : Nat}
include hop

theorem formatR_eq_none (hz : bits w 31 8 = 0) : formatR op 0 0 0 0 0 = w :=
  formatR_eq hop (bits_eq_zero_of_le hz) (bits_eq_zero_of_le hz) (bits_eq_zero_of_le hz) (bits_eq_zero_of_le hz)
    (bits_eq_zero_of_le hz)

theorem formatR_eq_one (hz : bits w 31 12 = 0) (hd : rd = bits w 11 8) : formatR op rd 0 0 0 0 = w :=
  formatR_eq hop hd (bits_eq_zero_of_le hz) (bits_eq_zero_of_le hz) (bits_eq_zero_of_le hz) (bits_eq_zero_of_le hz)

theorem formatR_eq_two (hz : bits w 31 16 = 0) (hd : rd = bits w 11 8) (h1 : rs1 = bits w 15 12) :
    formatR op rd rs1 0 0 0 = w :=
  formatR_eq hop hd h1 (bits_eq_zero_of_le hz) (bits_eq_zero_of_le hz) (bits_eq_zero_of_le hz)

theorem formatR_eq_three (hz : bits w 31 20 = 0) (hd : rd = bits w 11 8) (h1 : rs1 = bits w 15 12)
    (h2 : rs2 = bits w 19 16) : formatR op rd rs1 rs2 0 0 = w :=
  formatR_eq hop hd h1 h2 (bits_eq_zero_of_le hz) (bits_eq_zero_of_le hz)

end

/-- The flag `C` or `S` alone in the field `fl` (R71). -/
theorem flag_eq_bits {w : Word32} (hz : bits w 31 25 = 0) : (flagField w 24).toNat = bits w 31 24 := by
  rw [flagField_toNat]
  simp only [bits] at hz ⊢
  omega

/-- The flags `C` and `T` in the field `fl` (R71). -/
theorem flags_eq_bits {w : Word32} (hz : bits w 31 26 = 0) :
    (flagField w 24).toNat + 2 * (flagField w 25).toNat = bits w 31 24 := by
  rw [flagField_toNat, flagField_toNat]
  simp only [bits] at hz ⊢
  omega

/-! ### The rows of the decoder that share a form -/

section
variable {w : Word32} {i : Instr} {op : Nat} (hop : bits w 7 0 = op)
include hop

theorem row_noOperand {j : Instr} (hj : j.wellFormed = true ∧ encode j = formatR op 0 0 0 0 0)
    (h : zeros w [(31, 8)] (.ok j) = .ok i) : i.wellFormed = true ∧ encode i = w := by
  obtain ⟨hz, h⟩ := zeros_one_ok h
  cases h
  exact ⟨hj.1, hj.2.trans (formatR_eq_none hop hz)⟩

theorem row_oneSource {mk : XReg → XReg → Instr}
    (hmk : ∀ rd rs1, (mk rd rs1).wellFormed = true ∧ encode (mk rd rs1) = formatR op rd rs1 0 0 0)
    (h : zeros w [(31, 16)] (.ok (mk (xField w 8) (xField w 12))) = .ok i) : i.wellFormed = true ∧ encode i = w := by
  obtain ⟨hz, h⟩ := zeros_one_ok h
  cases h
  obtain ⟨hwf, henc⟩ := hmk (xField w 8) (xField w 12)
  exact ⟨hwf, henc.trans (formatR_eq_two hop hz (xField_val w 8) (xField_val w 12))⟩

theorem row_twoSources {mk : XReg → XReg → XReg → Instr}
    (hmk : ∀ rd rs1 rs2, (mk rd rs1 rs2).wellFormed = true ∧ encode (mk rd rs1 rs2) = formatR op rd rs1 rs2 0 0)
    (h : zeros w [(31, 20)] (.ok (mk (xField w 8) (xField w 12) (xField w 16))) = .ok i) :
    i.wellFormed = true ∧ encode i = w := by
  obtain ⟨hz, h⟩ := zeros_one_ok h
  cases h
  obtain ⟨hwf, henc⟩ := hmk (xField w 8) (xField w 12) (xField w 16)
  exact ⟨hwf, henc.trans (formatR_eq_three hop hz (xField_val w 8) (xField_val w 12) (xField_val w 16))⟩

/-- The three buffer moves. -/
theorem row_window {mk : XReg → BitVec 8 → BitVec 6 → Instr}
    (hmk : ∀ rd off len, encode (mk rd off len) = formatM op rd len.toNat off.toNat)
    (h : zeros w [(23, 18)] (ranged (mk (xField w 8) (offField w) (lenField w))) = .ok i) :
    i.wellFormed = true ∧ encode i = w := by
  obtain ⟨hz, h⟩ := zeros_one_ok h
  obtain ⟨hwf, rfl⟩ := ranged_ok h
  exact ⟨hwf, (hmk _ _ _).trans (formatM_eq hop hz (xField_val w 8) (lenField_toNat w) (offField_toNat w))⟩

/-- A read of a point register's coordinate or a test of it. -/
theorem row_pointSource {mk : XReg → PReg → Instr}
    (hmk : ∀ rd rs1, (mk rd rs1).wellFormed = true ∧ encode (mk rd rs1) = formatR op rd rs1 0 0 0)
    (h : (zeros w [(31, 16)] do let rs1 ← pField w 12; .ok (mk (xField w 8) rs1)) = .ok i) :
    i.wellFormed = true ∧ encode i = w := by
  obtain ⟨hz, h⟩ := zeros_one_ok h
  obtain ⟨p, hp, h⟩ := pField_bind_ok h
  cases h
  obtain ⟨hwf, henc⟩ := hmk (xField w 8) p
  exact ⟨hwf, henc.trans (formatR_eq_two hop hz (xField_val w 8) hp)⟩

/-- A point register as the only operand. -/
theorem row_pointDest {mk : PReg → Instr}
    (hmk : ∀ rd, (mk rd).wellFormed = true ∧ encode (mk rd) = formatR op rd 0 0 0 0)
    (h : (zeros w [(31, 12)] do let rd ← pField w 8; .ok (mk rd)) = .ok i) : i.wellFormed = true ∧ encode i = w := by
  obtain ⟨hz, h⟩ := zeros_one_ok h
  obtain ⟨p, hp, h⟩ := pField_bind_ok h
  cases h
  exact ⟨(hmk p).1, (hmk p).2.trans (formatR_eq_one hop hz hp)⟩

end

/-- Settles O2: row by row, in the order of `decode`; the unused bits of a legal word are 0, so its fields give it
back. -/
theorem legalWordsAreEncodings : Obligations.LegalWordsAreEncodings := by
  intro w i h
  unfold decode at h
  split at h <;> rename_i hop
  · exact row_noOperand (j := .nop) hop ⟨rfl, rfl⟩ h
  · -- li
    obtain ⟨hz, h⟩ := zeros_one_ok h
    cases h
    exact ⟨rfl, formatI_eq hop hz (xField_val w 8) (imm16Field_toNat w)⟩
  · -- ldc
    obtain ⟨hz, h⟩ := zeros_one_ok h
    obtain ⟨hwf, rfl⟩ := ranged_ok h
    exact ⟨hwf, formatI_eq hop hz (xField_val w 8) (imm16Field_toNat w)⟩
  · exact row_oneSource (mk := .mov) hop (fun _ _ => ⟨rfl, rfl⟩) h
  · -- setlen
    obtain ⟨hz, h⟩ := zeros_one_ok h
    obtain ⟨hwf, rfl⟩ := ranged_ok h
    exact ⟨hwf, formatI_eq hop (bits_eq_zero_of_le hz).symm (bits_eq_zero_of_le hz) (imm16Field_toNat w)⟩
  · -- getlen
    obtain ⟨hz, h⟩ := zeros_one_ok h
    cases h
    exact ⟨rfl, formatR_eq_one hop hz (xField_val w 8)⟩
  · exact row_window (mk := .ldbe) hop (fun _ _ _ => rfl) h
  · exact row_window (mk := .ldle) hop (fun _ _ _ => rfl) h
  · exact row_window (mk := .stbe) hop (fun _ _ _ => rfl) h
  · exact row_oneSource (mk := .fred) hop (fun _ _ => ⟨rfl, rfl⟩) h
  · exact row_twoSources (mk := .fadd) hop (fun _ _ _ => ⟨rfl, rfl⟩) h
  · exact row_twoSources (mk := .fsub) hop (fun _ _ _ => ⟨rfl, rfl⟩) h
  · exact row_oneSource (mk := .fneg) hop (fun _ _ => ⟨rfl, rfl⟩) h
  · exact row_twoSources (mk := .fmul) hop (fun _ _ _ => ⟨rfl, rfl⟩) h
  · exact row_oneSource (mk := .finv) hop (fun _ _ => ⟨rfl, rfl⟩) h
  · exact row_twoSources (mk := .fdiv) hop (fun _ _ _ => ⟨rfl, rfl⟩) h
  · -- fpow
    obtain ⟨hz3, hzf, h⟩ := zeros_two_ok h
    cases h
    exact ⟨rfl, formatR_eq hop (xField_val w 8) (xField_val w 12) (xField_val w 16) hz3.symm (flag_eq_bits hzf)⟩
  · exact row_oneSource (mk := .fsqrt) hop (fun _ _ => ⟨rfl, rfl⟩) h
  · exact row_oneSource (mk := .fisz) hop (fun _ _ => ⟨rfl, rfl⟩) h
  · exact row_twoSources (mk := .feq) hop (fun _ _ _ => ⟨rfl, rfl⟩) h
  · exact row_twoSources (mk := .pcont) hop (fun _ _ _ => ⟨rfl, rfl⟩) h
  · -- pnew
    obtain ⟨hz, h⟩ := zeros_one_ok h
    obtain ⟨pd, hd, h⟩ := pField_bind_ok h
    cases h
    exact ⟨rfl, formatR_eq_three hop hz hd (xField_val w 12) (xField_val w 16)⟩
  · exact row_pointDest (mk := .pinf) hop (fun _ => ⟨rfl, rfl⟩) h
  · exact row_pointDest (mk := .pldg) hop (fun _ => ⟨rfl, rfl⟩) h
  · -- pmov
    obtain ⟨hz, h⟩ := zeros_one_ok h
    obtain ⟨pd, hd, h⟩ := pField_bind_ok h
    obtain ⟨p1, h1, h⟩ := pField_bind_ok h
    cases h
    exact ⟨rfl, formatR_eq_two hop hz hd h1⟩
  · -- padd
    obtain ⟨hz, h⟩ := zeros_one_ok h
    obtain ⟨pd, hd, h⟩ := pField_bind_ok h
    obtain ⟨p1, h1, h⟩ := pField_bind_ok h
    obtain ⟨p2, h2, h⟩ := pField_bind_ok h
    cases h
    exact ⟨rfl, formatR_eq_three hop hz hd h1 h2⟩
  · -- pmul
    obtain ⟨hz, h⟩ := zeros_one_ok h
    obtain ⟨pd, hd, h⟩ := pField_bind_ok h
    obtain ⟨p1, h1, h⟩ := pField_bind_ok h
    cases h
    exact ⟨rfl, formatR_eq_three hop hz hd h1 (xField_val w 16)⟩
  · -- peq
    obtain ⟨hz, h⟩ := zeros_one_ok h
    obtain ⟨p1, h1, h⟩ := pField_bind_ok h
    obtain ⟨p2, h2, h⟩ := pField_bind_ok h
    cases h
    exact ⟨rfl, formatR_eq_three hop hz (xField_val w 8) h1 h2⟩
  · exact row_pointSource (mk := .pisinf) hop (fun _ _ => ⟨rfl, rfl⟩) h
  · exact row_pointSource (mk := .pgetx) hop (fun _ _ => ⟨rfl, rfl⟩) h
  · exact row_pointSource (mk := .pgety) hop (fun _ _ => ⟨rfl, rfl⟩) h
  · -- keygen
    obtain ⟨hz, h⟩ := zeros_one_ok h
    obtain ⟨pd, hd, h⟩ := pField_bind_ok h
    cases h
    exact ⟨rfl, formatR_eq_two hop hz hd (xField_val w 12)⟩
  · -- secenc
    obtain ⟨hzd, hz2, hzf, h⟩ := zeros_three_ok h
    obtain ⟨p1, h1, h⟩ := pField_bind_ok h
    cases h
    exact ⟨rfl, formatR_eq hop hzd.symm h1 (bits_eq_zero_of_le hz2) (bits_eq_zero_of_le hz2)
      (flag_eq_bits hzf)⟩
  · exact row_pointDest (mk := .secdec) hop (fun _ => ⟨rfl, rfl⟩) h
  · -- addr
    obtain ⟨hzd, hz2, hzf, h⟩ := zeros_three_ok h
    obtain ⟨p1, h1, h⟩ := pField_bind_ok h
    cases h
    exact ⟨rfl, formatR_eq hop hzd.symm h1 (bits_eq_zero_of_le hz2) (bits_eq_zero_of_le hz2)
      (flags_eq_bits hzf)⟩
  · -- wif
    obtain ⟨hzd, hz2, hzf, h⟩ := zeros_three_ok h
    cases h
    exact ⟨rfl, formatR_eq hop hzd.symm (xField_val w 12) (bits_eq_zero_of_le hz2)
      (bits_eq_zero_of_le hz2) (flags_eq_bits hzf)⟩
  · exact row_oneSource (mk := .nonce) hop (fun _ _ => ⟨rfl, rfl⟩) h
  · -- sign
    obtain ⟨hz2, hzf, h⟩ := zeros_two_ok h
    obtain ⟨hwf, rfl⟩ := distinct_ok h
    exact ⟨hwf, formatR_eq hop (xField_val w 8) (xField_val w 12) hz2.symm (xField_val w 20) hzf.symm⟩
  · -- verify
    obtain ⟨hzf, h⟩ := zeros_one_ok h
    obtain ⟨p3, h3, h⟩ := pField_bind_ok h
    cases h
    exact ⟨rfl, formatR_eq hop (xField_val w 8) (xField_val w 12) (xField_val w 16) h3 hzf.symm⟩
  · -- derenc
    obtain ⟨hzd, hz, h⟩ := zeros_two_ok h
    cases h
    exact ⟨rfl, formatR_eq_three hop hz hzd.symm (xField_val w 12) (xField_val w 16)⟩
  · -- derdec
    obtain ⟨hz12, hzf, h⟩ := zeros_two_ok h
    obtain ⟨hwf, rfl⟩ := distinct_ok h
    exact ⟨hwf, formatR_eq hop (xField_val w 8) (bits_eq_zero_of_le hz12)
      (bits_eq_zero_of_le hz12) (xField_val w 20) hzf.symm⟩
  · exact row_noOperand (j := .b58enc) hop ⟨rfl, rfl⟩ h
  · exact row_noOperand (j := .b58dec) hop ⟨rfl, rfl⟩ h
  · exact row_noOperand (j := .b58cenc) hop ⟨rfl, rfl⟩ h
  · exact row_noOperand (j := .b58cdec) hop ⟨rfl, rfl⟩ h
  · exact row_noOperand (j := .h256) hop ⟨rfl, rfl⟩ h
  · exact row_noOperand (j := .h160) hop ⟨rfl, rfl⟩ h
  · cases h

/-! ### Illegal words and the step (R70, R77, R78) -/

/-- The opcodes of R76. -/
def opcodes : List Nat :=
  [0x00, 0x01, 0x02, 0x03, 0x04, 0x05, 0x06, 0x07, 0x08,
   0x10, 0x11, 0x12, 0x13, 0x14, 0x15, 0x16, 0x17, 0x18, 0x19, 0x1A,
   0x20, 0x21, 0x22, 0x23, 0x24, 0x25, 0x26, 0x27, 0x28, 0x29, 0x2A,
   0x30, 0x31, 0x32, 0x33, 0x34, 0x40, 0x41, 0x42, 0x43, 0x44,
   0x50, 0x51, 0x52, 0x53, 0x60, 0x61]

theorem number_mem_opcodes (i : Instr) : number i ∈ opcodes := by
  cases i <;> simp [number, opcodes]

theorem bits_opcode (w : Word32) : bits w 7 0 = w.toNat % 256 := by
  simp [bits]

theorem encode_mod_mem_opcodes (i : Instr) : (encode i).toNat % 256 ∈ opcodes := by
  rw [← bits_opcode, show bits (encode i) 7 0 = number i from number_eq i]
  exact number_mem_opcodes i

theorem decode_of_not_mem_opcodes {w : Word32} (h : bits w 7 0 ∉ opcodes) : decode w = .error .unassignedOpcode := by
  unfold decode
  split
  -- the row of every other opcode, then the 47 rows of R76
  case h_48 => rfl
  all_goals
    rename_i hop
    rw [hop] at h
    exact absurd (by decide) h

section
variable {s : State}

theorem coreStep_of_decode {i : Instr} (hb : s.busy = true) (hd : decode s.cmd = .ok i) : coreStep s = exec i s := by
  rw [coreStep, if_pos hb, State.fetch, hd]

theorem coreStep_of_illegal {e : DecodeError} (hb : s.busy = true) (hd : decode s.cmd = .error e) :
    coreStep s = .next (s.takeFault .illegalCmd) := by
  rw [coreStep, if_pos hb, State.fetch, hd]
  rfl

theorem coreStep_idle (hb : s.busy = false) : coreStep s = .next s := by
  rw [coreStep, hb]
  rfl

theorem step_of_no_access (h : s.hostOps = []) : step s = coreStep s := by
  rw [step, h]

theorem step_wait {rest : List HostOp} (h : s.hostOps = .wait :: rest) :
    step s = coreStep { s with hostOps := rest } := by
  rw [step, h]

end

/-- Settles O4: a word that decodes is the word of a well-formed command (O2), so any other is rejected; the low byte of
every command's word is an opcode of R76. -/
theorem illegalWordsFault : Obligations.IllegalWordsFault := by
  refine ⟨fun s hb hops hno => ?_, fun w i hw => ⟨fun e => hw (e ▸ encode_mod_mem_opcodes i), ?_⟩⟩
  · rw [step_of_no_access hops]
    cases hd : decode s.cmd with
    | ok i =>
      obtain ⟨hwf, henc⟩ := legalWordsAreEncodings s.cmd i hd
      exact absurd henc (hno i hwf)
    | error e => exact ⟨_, coreStep_of_illegal hb hd, takeFault_faulted s _⟩
  · exact decode_of_not_mem_opcodes (by rwa [bits_opcode])

/-- Settles O5: one equation of the step or of the core's move per clause. -/
theorem stepRunsTheDecodedCommand : Obligations.StepRunsTheDecodedCommand :=
  ⟨fun _ _ hb hops hd => (step_of_no_access hops).trans (coreStep_of_decode hb hd),
    fun _ hb hops => (step_of_no_access hops).trans (coreStep_idle hb), fun _ _ h => step_wait h,
    fun _ _ hb hd => coreStep_of_decode hb hd⟩

end Sys2Proof.Machine
end

section
/-!
PROOFS. The bus window: the command register (R33), the reserved words of the map (R52) and the accesses that end in
`BusError` (R57).
-/

namespace Sys2Proof.Machine

section
variable (s : State) (w : Word32)

@[simp] theorem windowRead_cmd : s.windowRead 0x000 = s.cmd := rfl

theorem writeCmd_of_fault {s : State} (h : s.err ≠ 0) : s.writeCmd w = s := if_neg h

theorem hostWrite_of_busy {s : State} {off width : Nat} (ha : busAligned off width = true) (hb : s.busy = true) :
    s.hostWrite off width w = { s with reply := .done } := by
  simp [State.hostWrite, ha, hb]

variable {off width : Nat}

theorem hostRead_misaligned (ha : busAligned off width = false) :
    s.hostRead off width = { s with reply := .busError } := by
  simp [State.hostRead, ha]

theorem hostWrite_misaligned (ha : busAligned off width = false) :
    s.hostWrite off width w = { s with reply := .busError } := by
  simp [State.hostWrite, ha]

variable (h : 0x014 ≤ off ∧ off < 0x200 ∨ 0x500 ≤ off ∧ off < 0x600)
include h

theorem windowRead_reserved : s.windowRead off = 0 := by
  unfold State.windowRead
  rw [if_neg (by omega), if_neg (by omega), if_neg (by omega), if_neg (by omega), if_neg (by omega), if_neg (by omega),
    if_neg (by omega)]

theorem windowWrite_reserved : s.windowWrite off w = s := by
  unfold State.windowWrite
  rw [if_neg (by omega), if_neg (by omega), if_neg (by omega), if_neg (by omega), if_neg (by omega), if_neg (by omega)]

end

/-- Settles O7: a write to `CMD` by the three cases of `BUSY` and `ERR`; the step after an accepted one is O5's. -/
theorem commandRegister : Obligations.CommandRegister := by
  refine ⟨fun s w rest h hb he => ⟨_, ?_, rfl, fun hrest i hd => ?_⟩, fun s w rest h hbe => ?_,
    fun s rest h hb => ?_, rfl⟩
  · rw [step_write_idle h rfl hb, windowWrite_cmd, writeCmd_of_no_fault (s := { s with hostOps := rest }) he]
    rfl
  · exact stepRunsTheDecodedCommand.1 _ i rfl hrest hd
  · obtain hb | hb := Bool.eq_false_or_eq_true s.busy
    · rw [step_write h, hostWrite_of_busy w rfl (s := { s with hostOps := rest }) hb]
    · have he : s.err ≠ 0 := hbe.resolve_left (by simp [hb])
      rw [step_write_idle h rfl hb, windowWrite_cmd, writeCmd_of_fault w (s := { s with hostOps := rest }) he]
  · rw [step_read_idle h rfl hb, windowRead_cmd]

/-- Settles O13: a reserved word is in none of the ranges of the map, and an access that is not aligned stops at the
first check. -/
theorem reservedWordsAndBusErrors : Obligations.ReservedWordsAndBusErrors := by
  refine ⟨fun s off rest h4 hr hb => ?_, fun s off width rest hbad => ?_⟩
  · have ha : busAligned off 32 = true := (busAligned_iff off 32).2 ⟨rfl, h4, by omega⟩
    refine ⟨fun h => ?_, fun w h => ?_⟩
    · rw [step_read_idle h ha hb, windowRead_reserved s hr]
    · rw [step_write_idle h ha hb, windowWrite_reserved _ w hr]
  · have ha : busAligned off width = false := by
      rw [Bool.eq_false_iff, Ne, busAligned_iff]
      omega
    refine ⟨fun h => ?_, fun w h => ?_⟩
    · rw [step_read h, hostRead_misaligned _ ha]
    · rw [step_write h, hostWrite_misaligned _ w ha]

end Sys2Proof.Machine
end

section
/-!
PROOFS. The group of the curve: its laws (42_curve R164), PMUL as repeated addition (R158, R159), and the order of the
base point (00_scope R9).
-/

namespace Sys2Proof.Machine

open Sys2Proof.Config (prime order)

section
variable [Fact prime.Prime] {p q r : Point} (hp : p.valid = true) (hq : q.valid = true)
include hp

/-! ### The laws of the group -/

theorem padd_opposite : padd p p.opposite = .inf := by
  obtain ⟨hv, hc⟩ := opposite_toCurve hp
  obtain ⟨hsv, hsc⟩ := padd_toCurve hp hv
  rw [← toCurve_eq_zero hsv, hsc, hc, add_neg_cancel]

include hq

theorem padd_comm : padd p q = padd q p := by
  obtain ⟨hv, hc⟩ := padd_toCurve hp hq
  obtain ⟨hv', hc'⟩ := padd_toCurve hq hp
  rw [← toCurve_inj hv hv', hc, hc', add_comm]

theorem padd_assoc (hr : r.valid = true) : padd (padd p q) r = padd p (padd q r) := by
  obtain ⟨hpq, hpqc⟩ := padd_toCurve hp hq
  obtain ⟨hqr, hqrc⟩ := padd_toCurve hq hr
  obtain ⟨hv, hc⟩ := padd_toCurve hpq hr
  obtain ⟨hv', hc'⟩ := padd_toCurve hp hqr
  rw [← toCurve_inj hv hv', hc, hc', hpqc, hqrc, add_assoc]

end

theorem padd_inf (p : Point) : padd p .inf = p := by
  cases p <;> rfl

/-- Settles O39: `toCurve` is an injection of the valid point values into Mathlib's group of the curve that takes `padd`
to its addition. -/
theorem pointsFormAGroup : Obligations.PointsFormAGroup := by
  have : Fact prime.Prime := ⟨prime_prime⟩
  exact fun p q r hp hq hr => ⟨padd_valid hp hq, padd_assoc hp hq hr, padd_comm hp hq, padd_inf p,
    (opposite_toCurve hp).1, padd_opposite hp⟩

/-! ### PMUL (R159) -/

/-- Settles O40: PMUL writes `pmul`, which is repeated addition of a valid point by `pmul_eq_multiple`. -/
theorem scalarMultiplication : Obligations.ScalarMultiplication := by
  have : Fact prime.Prime := ⟨prime_prime⟩
  intro s rd rs1 rs2 hs
  obtain ⟨t, ht, hw⟩ := finishP_writesP s rd (pmul (s.xNat rs2) (s.readP rs1))
  exact ⟨decode_pmul rd rs1 rs2, t, ht, hw, hw.value.trans (pmul_eq_multiple _ (hs rs1))⟩

/-! ### The order of the base point -/

/-- The double-and-add loop on the base point and `N` itself, not reduced modulo `N`. -/
theorem pmulLoop_order_basePoint : pmulLoop 256 order basePoint .inf = .inf := by decide +kernel

section
variable [Fact prime.Prime]

theorem order_nsmul_basePoint : order • basePoint.toCurve = 0 := by
  obtain ⟨-, hc⟩ := pmulLoop_toCurve 256 order (by decide) basePoint_valid (r := .inf) rfl
  rw [pmulLoop_order_basePoint, toCurve_inf, zero_add] at hc
  exact hc.symm

/-- `N` is prime and `G` is not the identity. -/
theorem addOrderOf_basePoint : addOrderOf basePoint.toCurve = order := by
  have : Fact order.Prime := ⟨order_prime⟩
  exact addOrderOf_eq_prime order_nsmul_basePoint fun h => by cases (toCurve_eq_zero basePoint_valid).1 h

theorem multiple_basePoint_eq_inf_iff (k : Nat) : multiple k basePoint = .inf ↔ order ∣ k := by
  obtain ⟨hv, hc⟩ := multiple_toCurve k basePoint_valid
  rw [← toCurve_eq_zero hv, hc, ← addOrderOf_dvd_iff_nsmul_eq_zero, addOrderOf_basePoint]

end

/-- Settles O42: `N` is the order of `G` in the group of the curve. -/
theorem basePointHasOrderN : Obligations.BasePointHasOrderN := by
  have : Fact prime.Prime := ⟨prime_prime⟩
  refine ⟨(contains_iff_onCurve _ _).1 (by decide +kernel), (multiple_basePoint_eq_inf_iff _).2 (dvd_refl _),
    fun k h1 hk h => ?_⟩
  have := Nat.le_of_dvd h1 ((multiple_basePoint_eq_inf_iff k).1 h)
  omega

end Sys2Proof.Machine
end

section
/-!
PROOFS. The SEC round trip (43_keys section 8): SECDEC decodes the SEC string of every normal point, in both forms.
-/

namespace Sys2Proof.Machine

open Sys2Proof.Config (prime)

/-- Every word is read back from its 32 bytes. -/
theorem intBE_bytesBE_word (v : Word) : intBE (bytesBE v.toNat 32) = v.toNat := by
  rw [intBE_bytesBE]
  exact Nat.mod_eq_of_lt v.isLt

theorem mkPoint_toNat (x y : Word) : mkPoint x.toNat y.toNat = .pt x y := by
  rw [mkPoint, BitVec.ofNat_toNat, BitVec.setWidth_eq, BitVec.ofNat_toNat, BitVec.setWidth_eq]

/-- Of the two roots of a square that is not 0, one is even and one is odd. -/
theorem root_of_parity {b y : Nat} (hb : b = y ∨ b = prime - y) (hy : y < prime) (h0 : y ≠ 0) :
    (if (b % 2 == 0) = (y % 2 == 0) then b else (prime - b) % prime) = y := by
  have hodd : prime % 2 = 1 := by decide
  obtain rfl | rfl := hb
  · rw [if_pos rfl]
  · have hpar : ¬ ((prime - y) % 2 == 0) = (y % 2 == 0) := by
      rw [Bool.eq_iff_iff, beq_iff_eq, beq_iff_eq]
      omega
    rw [if_neg hpar, Nat.sub_sub_self hy.le, Nat.mod_eq_of_lt hy]

section
variable {x y : Word} (h : (Point.pt x y).valid = true)
include h

theorem onCurve_of_valid : OnCurve x.toNat y.toNat := by
  obtain h | ⟨x', y', e, -, -, hc⟩ := (Point.valid_iff _).1 h
  · cases h
  · cases e
    exact hc

theorem ordinate_ne_zero : y.toNat ≠ 0 := by
  have : Fact prime.Prime := ⟨prime_prime⟩
  exact fun h0 => not_onCurve_of_zero (.inr h0) (onCurve_of_valid h)

theorem checkedPoint_of_valid : checkedPoint x.toNat y.toNat = .ok (.pt x y) := by
  rw [checkedPoint_of_onCurve (onCurve_of_valid h), mkPoint_toNat]

/-- The candidate root of the curve's right side at `x` is `y` or its negative (R129). -/
theorem sqrt_curve_right_side : Fp.sqrt (Fp.add (Fp.mul (Fp.mul x.toNat x.toNat) x.toNat) Config.curveB) = y.toNat ∨
    Fp.sqrt (Fp.add (Fp.mul (Fp.mul x.toNat x.toNat) x.toNat) Config.curveB) = prime - y.toNat := by
  have : Fact prime.Prime := ⟨prime_prime⟩
  obtain ⟨-, hy, he⟩ := (valid_pt_iff x y).1 h
  set a := Fp.add (Fp.mul (Fp.mul x.toNat x.toNat) x.toNat) Config.curveB with ha
  have hay : (a : Fld) = (y.toNat : Fld) ^ 2 := by
    rw [he, ha]
    simp only [Fp.cast_add, Fp.cast_mul, Config.curveB, Nat.cast_ofNat]
    ring
  have hsq : Fp.sqrt a * Fp.sqrt a % prime = a :=
    Fp.sqrt_mul_self_of_isSquare (Fp.add_lt _ _) ⟨y.toNat, by rw [hay, sq]⟩
  have hroot : (Fp.sqrt a : Fld) ^ 2 = (y.toNat : Fld) ^ 2 := by
    rw [← hay, sq, ← Nat.cast_mul, ← ZMod.natCast_mod, hsq]
  obtain e | e := sq_eq_sq_iff_eq_or_eq_neg.1 hroot
  · exact .inl (eq_of_cast_eq (Fp.sqrt_lt a) hy e)
  · exact .inr (eq_of_cast_eq (Fp.sqrt_lt a) (Nat.sub_lt prime_pos (Nat.pos_of_ne_zero (ordinate_ne_zero h)))
      (by rw [e, cast_prime_sub hy.le]))

theorem secdec_secString_uncompressed : secdec (secString x y false) = .ok (.pt x y) := by
  obtain ⟨hx, hy, -⟩ := (valid_pt_iff x y).1 h
  have hl : (secString x y false).length = 65 := secString_length x y false
  have hX : ((secString x y false).drop 1).take 32 = bytesBE x.toNat 32 := by simp [secString]
  have hY : ((secString x y false).drop 33).take 32 = bytesBE y.toNat 32 := by simp [secString]
  rw [secdec, if_pos hl, secdecUncompressed, if_neg (by simp [secString]), hX, hY, intBE_bytesBE_word,
    intBE_bytesBE_word, Nat.mod_eq_of_lt hx, Nat.mod_eq_of_lt hy]
  exact checkedPoint_of_valid h

/-- The tag names the parity of `y`, which tells it from its negative. -/
theorem secdec_secString_compressed : secdec (secString x y true) = .ok (.pt x y) := by
  obtain ⟨hx, hy, -⟩ := (valid_pt_iff x y).1 h
  have hl : (secString x y true).length = 33 := secString_length x y true
  have hX : ((secString x y true).drop 1).take 32 = bytesBE x.toNat 32 := by simp [secString]
  have htag : (secString x y true).getD 0 0 = if y.toNat % 2 = 0 then 0x02 else 0x03 := rfl
  have htag' : ¬ ((secString x y true).getD 0 0 ≠ 0x02 ∧ (secString x y true).getD 0 0 ≠ 0x03) := by
    rw [htag]
    split <;> simp
  have heven : ((secString x y true).getD 0 0 == 0x02) = (y.toNat % 2 == 0) := by
    rw [htag]
    split <;> simp [*]
  rw [secdec, if_neg (by rw [hl]; decide), if_pos hl, secdecCompressed, if_neg htag', hX, intBE_bytesBE_word,
    Nat.mod_eq_of_lt hx, heven]
  dsimp only
  rw [root_of_parity (sqrt_curve_right_side h) hy (ordinate_ne_zero h)]
  exact checkedPoint_of_valid h

theorem secdec_secString (c : Bool) : secdec (secString x y c) = .ok (.pt x y) := by
  cases c
  · exact secdec_secString_uncompressed h
  · exact secdec_secString_compressed h

end

/-- The message that a command left which ended with `SetMsg`. -/
theorem msg_withMsg_complete {s : State} (hw : s.bufCanonical) {bs : Bytes} (h : bs.length ≤ 256) :
    (s.withMsg bs h).complete.msg = bs :=
  State.msg_withMsg h hw

/-- Settles O45: SECENC leaves the SEC string as the message, and `secdec_secString` decodes it. -/
theorem secRoundTrip : Obligations.SecRoundTrip := by
  intro s rd rs1 c hp hw hne
  cases hpt : s.readP rs1 with
  | inf => exact absurd hpt hne
  | pt x y =>
    have hl : (secString x y c).length ≤ 256 := by
      rw [secString_length]
      split <;> decide
    have hv : (Point.pt x y).valid = true := hpt ▸ hp rs1
    have ht : exec (.secenc rs1 c) s = .next (s.withMsg _ hl).complete := (exec_secenc_pt hpt c).trans (setMsg_eq s hl)
    have hu : exec (.secdec rd) (s.withMsg _ hl).complete =
        .next ((s.withMsg _ hl).complete.writeP rd (.pt x y)).complete := by
      rw [exec, execSecdec, msg_withMsg_complete hw hl, secdec_secString hv, attempt_ok, finishP_eq]
    exact ⟨_, _, ht, hu, State.readP_writeP_same _ rd _⟩

end Sys2Proof.Machine
end

section
/-!
PROOFS. The DER decoder (44_ecdsa R214 to R216): what one component reads, the decoder by position, and that it inverts
the encoder.
-/

namespace Sys2Proof.Machine

namespace Der

/-! ### One component (R214) -/

/-- The checks of one component in reading order, by position. -/
theorem component_eq (rest : Bytes) : component rest =
    if rest.length < 1 then .error .derLength
    else if rest.getD 0 0 ≠ 0x02 then .error .derMarker
    else if rest.length < 2 + (rest.getD 1 0).toNat then .error .derLength
    else .ok ((rest.drop 2).take (rest.getD 1 0).toNat, rest.drop (2 + (rest.getD 1 0).toNat)) := by
  match rest with
  | [] => rfl
  | [marker] =>
    by_cases h : marker = 0x02
    · subst h
      rfl
    · show (if marker ≠ 0x02 then _ else _) = if 1 < 1 then _ else if marker ≠ 0x02 then _ else _
      rw [if_pos h, if_neg (Nat.lt_irrefl 1), if_pos h]
  | marker :: n :: rest =>
    show (if marker ≠ 0x02 then _ else read n.toNat rest) = if _ then _ else if marker ≠ 0x02 then _ else _
    rw [if_neg (show ¬ (marker :: n :: rest).length < 1 by simp)]
    by_cases h : marker = 0x02
    · rw [if_neg (not_not.2 h), if_neg (not_not.2 h), read]
      have hlen : (marker :: n :: rest).length < 2 + ((marker :: n :: rest).getD 1 0).toNat ↔
          rest.length < n.toNat := by
        simp only [List.length_cons, List.getD_cons_succ, List.getD_cons_zero]
        omega
      by_cases hn : rest.length < n.toNat
      · rw [if_pos hn, if_pos (hlen.2 hn)]
      · rw [if_neg hn, if_neg (mt hlen.1 hn)]
        simp [Nat.add_comm 2]
    · rw [if_pos h, if_pos h]

/-- A component is read back in front of any rest. -/
theorem component_int (v : Nat) (rest : Bytes) : component (int v ++ rest) = .ok (content v, rest) := by
  have hn : (BitVec.ofNat 8 (content v).length).toNat = (content v).length := by
    have := content_length_le v
    rw [BitVec.toNat_ofNat, Nat.mod_eq_of_lt (by omega)]
  show read (BitVec.ofNat 8 (content v).length).toNat (content v ++ rest) = _
  rw [hn, read, if_neg (by simp), List.take_left, List.drop_left]

/-! ### The two components of a signature -/

/-- What the decoder does behind the tag and the length byte: two components, the end, the overflow check. -/
def components (rest : Bytes) : Except ErrCode (Nat × Nat) := do
  let (rb, rest) ← component rest
  let (sb, rest) ← component rest
  if rest ≠ [] then .error .derLength
  else if intBE rb ≥ 2 ^ 256 ∨ intBE sb ≥ 2 ^ 256 then .error .encOverflow
  else .ok (intBE rb, intBE sb)

theorem decode_cons_cons (tag l : Byte) (rest : Bytes) : decode (tag :: l :: rest) =
    if tag ≠ 0x30 then .error .derCompound
    else if l.toNat + 2 ≠ (tag :: l :: rest).length then .error .derLength
    else components rest := rfl

section
variable {rest rest' rest'' rb sb : Bytes} {e : ErrCode}

theorem components_of_error (h : component rest = .error e) : components rest = .error e := by
  rw [components, h]
  rfl

variable (h : component rest = .ok (rb, rest'))
include h

theorem components_of_second_error (h' : component rest' = .error e) : components rest = .error e := by
  rw [components, h]
  show (component rest' >>= _) = _
  rw [h']
  rfl

theorem components_of_ok (h' : component rest' = .ok (sb, rest'')) : components rest =
    if rest'' ≠ [] then .error .derLength
    else if intBE rb ≥ 2 ^ 256 ∨ intBE sb ≥ 2 ^ 256 then .error .encOverflow
    else .ok (intBE rb, intBE sb) := by
  rw [components, h]
  show (component rest' >>= _) = _
  rw [h']
  rfl

end

/-! ### The decoder inverts the encoder -/

theorem decode_encode {r s : Nat} (hr : r < 2 ^ 256) (hs : s < 2 ^ 256) : decode (encode r s) = .ok (r, s) := by
  have hl : (BitVec.ofNat 8 ((int r).length + (int s).length)).toNat + 2 = (encode r s).length := by
    have := encode_length_le r s
    simp only [encode, List.length_cons, List.length_append] at this ⊢
    rw [BitVec.toNat_ofNat, Nat.mod_eq_of_lt (by omega)]
  have hcs : component (int s) = .ok (content s, []) := by
    simpa using component_int s []
  rw [encode] at hl ⊢
  rw [decode_cons_cons, if_neg (by decide), if_neg (not_not.2 hl), components_of_ok (component_int r (int s)) hcs,
    if_neg (by decide), intBE_content hr, intBE_content hs, if_neg (by omega)]

/-! ### The decoder by position (R214) -/

theorem getD_drop (m : Bytes) (i j : Nat) : (m.drop i).getD j 0 = m.getD (i + j) 0 := by
  simp [List.getD_eq_getElem?_getD]

/-- One component that starts at position `pos` of the message. -/
theorem component_drop (m : Bytes) {pos : Nat} (hpos : pos ≤ m.length) : component (m.drop pos) =
    if m.length < pos + 1 then .error .derLength
    else if m.getD pos 0 ≠ 0x02 then .error .derMarker
    else if m.length < pos + 2 + (m.getD (pos + 1) 0).toNat then .error .derLength
    else .ok ((m.drop (pos + 2)).take (m.getD (pos + 1) 0).toNat, m.drop (pos + 2 + (m.getD (pos + 1) 0).toNat)) := by
  rw [component_eq]
  simp only [getD_drop, List.length_drop, List.drop_drop, Nat.add_zero, ← Nat.add_assoc]
  have h1 : m.length - pos < 1 ↔ m.length < pos + 1 := by omega
  have h2 : m.length - pos < 2 + (m.getD (pos + 1) 0).toNat ↔
      m.length < pos + 2 + (m.getD (pos + 1) 0).toNat := by omega
  simp only [h1, h2]

theorem components_drop_two {m : Bytes} (h2 : 2 ≤ m.length) (h0 : m.getD 0 0 = 0x30)
    (h1 : (m.getD 1 0).toNat + 2 = m.length) : components (m.drop 2) = derDecodeAt m := by
  unfold derDecodeAt
  dsimp only
  rw [if_neg (by omega), if_neg (not_not.2 h0), if_neg (by omega)]
  have hr := component_drop m h2
  by_cases h3 : m.length < 3
  · rw [if_pos h3, components_of_error (by rw [hr, if_pos h3])]
  rw [if_neg h3] at hr ⊢
  by_cases hm : m.getD 2 0 ≠ 0x02
  · rw [if_pos hm, components_of_error (by rw [hr, if_pos hm])]
  rw [if_neg hm] at hr ⊢
  by_cases h4 : m.length < 4 + (m.getD 3 0).toNat
  · rw [if_pos h4, components_of_error (by rw [hr, if_pos h4])]
  rw [if_neg h4] at hr ⊢
  have hs := component_drop m (Nat.le_of_not_lt h4)
  generalize (m.getD 3 0).toNat = rl at *
  have e5 : 4 + rl + 1 = 5 + rl := by omega
  have e6 : 4 + rl + 2 = 6 + rl := by omega
  rw [e5, e6] at hs
  by_cases h5 : m.length < 5 + rl
  · rw [if_pos h5, components_of_second_error hr (by rw [hs, if_pos h5])]
  rw [if_neg h5] at hs ⊢
  by_cases hm' : m.getD (4 + rl) 0 ≠ 0x02
  · rw [if_pos hm', components_of_second_error hr (by rw [hs, if_pos hm'])]
  rw [if_neg hm'] at hs ⊢
  generalize (m.getD (5 + rl) 0).toNat = sl at *
  by_cases h6 : m.length < 6 + rl + sl
  · rw [if_pos (.inr h6), components_of_second_error hr (by rw [hs, if_pos h6])]
  rw [if_neg h6] at hs
  rw [if_neg (by omega), components_of_ok hr hs]
  have hend : m.drop (6 + rl + sl) ≠ [] ↔ 6 + rl + sl ≠ m.length := by
    rw [Ne, List.drop_eq_nil_iff]
    omega
  simp only [hend]

section
variable {m : Bytes} (h : 1 ≤ m.length)
include h

theorem derDecodeAt_badTag (h0 : m.getD 0 0 ≠ 0x30) : derDecodeAt m = .error .derCompound := by
  unfold derDecodeAt
  dsimp only
  rw [if_neg (by omega), if_pos h0]

theorem derDecodeAt_badLength (h0 : m.getD 0 0 = 0x30) (h1 : m.length < 2 ∨ (m.getD 1 0).toNat + 2 ≠ m.length) :
    derDecodeAt m = .error .derLength := by
  unfold derDecodeAt
  dsimp only
  rw [if_neg (by omega), if_neg (not_not.2 h0), if_pos h1]

end

/-- R214: the decoder that keeps the bytes left reads as the decoder that keeps the position (log entry 20). -/
theorem decode_eq_derDecodeAt (m : Bytes) : decode m = derDecodeAt m := by
  match m with
  | [] => rfl
  | [tag] =>
    have hd : decode [tag] = if tag ≠ 0x30 then .error .derCompound else .error .derLength := rfl
    by_cases h0 : tag = 0x30
    · rw [hd, if_neg (not_not.2 h0), derDecodeAt_badLength (m := [tag]) (by simp) h0 (.inl (by simp))]
    · rw [hd, if_pos h0, derDecodeAt_badTag (m := [tag]) (by simp) h0]
  | tag :: l :: rest =>
    rw [decode_cons_cons]
    by_cases h0 : tag = 0x30
    · rw [if_neg (not_not.2 h0)]
      by_cases h1 : l.toNat + 2 = (tag :: l :: rest).length
      · rw [if_neg (not_not.2 h1)]
        exact components_drop_two (m := tag :: l :: rest) (by simp) h0 h1
      · rw [if_pos h1, derDecodeAt_badLength (m := tag :: l :: rest) (by simp) h0 (.inr h1)]
    · rw [if_pos h0, derDecodeAt_badTag (m := tag :: l :: rest) (by simp) h0]

theorem components_lt {rest : Bytes} {r s : Nat} (h : components rest = .ok (r, s)) : r < 2 ^ 256 ∧ s < 2 ^ 256 := by
  obtain ⟨⟨rb, rest'⟩, -, h⟩ := bind_ok h
  obtain ⟨⟨sb, rest''⟩, -, h⟩ := bind_ok h
  dsimp only at h
  split at h
  · cases h
  · split at h <;> cases h
    omega

/-- What is decoded fits the registers (R216). -/
theorem decode_lt {m : Bytes} {r s : Nat} (h : decode m = .ok (r, s)) : r < 2 ^ 256 ∧ s < 2 ^ 256 := by
  obtain ⟨⟨tag, rest⟩, -, h⟩ := bind_ok h
  dsimp only at h
  split at h
  · cases h
  · obtain ⟨⟨l, rest⟩, -, h⟩ := bind_ok h
    dsimp only at h
    split at h
    · cases h
    · exact components_lt h

end Der

/-! ### The obligations -/

/-- Settles O54: DERENC leaves the encoding as the message, and `Der.decode_encode` decodes it. -/
theorem derRoundTrip : Obligations.DerRoundTrip := by
  intro s rs1 rs2 rd rs3 hw hne
  have hl : (Der.encode (s.xNat rs1) (s.xNat rs2)).length ≤ 256 := (Der.encode_length_le _ _).trans (by decide)
  have hdec : Der.decode (Der.encode (s.xNat rs1) (s.xNat rs2)) = .ok (s.xNat rs1, s.xNat rs2) :=
    Der.decode_encode (s.readX rs1).isLt (s.readX rs2).isLt
  have hu : exec (.derdec rd rs3) (s.withMsg _ hl).complete =
      finishX ((s.withMsg _ hl).complete.writeX rd (word (s.xNat rs1))) rs3 (word (s.xNat rs2)) := by
    rw [exec, execDerdec, if_neg hne, msg_withMsg_complete hw hl, hdec, attempt_ok]
  have hw2 := writeTwoX_complete (s.withMsg _ hl).complete hne (word (s.xNat rs1)) (word (s.xNat rs2))
  refine ⟨_, _, setMsg_eq s hl, hu.trans (finishX_eq _ _ _), ?_, ?_⟩
  · exact BitVec.eq_of_toNat_eq (hw2.value.trans (toNat_word_of_lt (n := 32) (s.readX rs1).isLt (by decide)))
  · exact BitVec.eq_of_toNat_eq (hw2.value2.trans (toNat_word_of_lt (n := 32) (s.readX rs2).isLt (by decide)))

/-- Settles O53: the two decoders agree, and both results are 256-bit values. -/
theorem derDecode : Obligations.DerDecode := by
  refine ⟨fun rd => (decode_derdec rd rd).trans (by simp [distinct, Instr.wellFormed]), fun s rd rs3 hne => ?_⟩
  obtain ⟨t, ht⟩ := exec_next (.derdec rd rs3) s
  have hwf : (Instr.derdec rd rs3).wellFormed = true := decide_eq_true hne
  refine ⟨(decode_derdec rd rs3).trans (distinct_of_wellFormed hwf), t, ht, fun e he => ?_, fun r sv hrs => ?_⟩
  · rw [← Der.decode_eq_derDecodeAt] at he
    exact faulted_of_eq_raise ht (by rw [exec, execDerdec, if_neg hne, he, attempt_error, raise_eq])
  · rw [← Der.decode_eq_derDecodeAt] at hrs
    obtain ⟨hr, hs⟩ := Der.decode_lt hrs
    rw [exec, execDerdec, if_neg hne, hrs, attempt_ok, finishX_eq] at ht
    cases ht
    have hw := writeTwoX_complete s hne (word r) (word sv)
    rwa [toNat_word_of_lt (n := 32) hr (by decide), toNat_word_of_lt (n := 32) hs (by decide)] at hw

end Sys2Proof.Machine
end

section
/-!
PROOFS. The plain Base58 codec (45_base58 R230 to R236): a string is its leading zeros and the digits of its integer,
and the digits of an integer without a leading zero are unique; the commands B58ENC and B58DEC (R233, R235).
-/

namespace Sys2Proof.Machine

/-! ### Leading digits and the digits of an integer

Bytes and base-58 digits alike: most significant first, and none of them 0 in front. -/

theorem exists_replicate_append {α : Type} [DecidableEq α] (b : α) (l : List α) :
    ∃ k r, l = List.replicate k b ++ r ∧ r.head? ≠ some b := by
  induction l with
  | nil => exact ⟨0, [], rfl, by simp⟩
  | cons a l ih =>
    by_cases h : a = b
    · obtain ⟨k, r, rfl, hr⟩ := ih
      exact ⟨k + 1, r, by rw [h, List.replicate_succ, List.cons_append], hr⟩
    · exact ⟨0, a :: l, rfl, by simpa using h⟩

/-- The digits of an integer in base `b` without a leading zero are unique. -/
theorem digits_unique {b : Nat} (hb : 1 < b) {l l' : List Nat} (hl : ∀ d ∈ l, d < b) (hl' : ∀ d ∈ l', d < b)
    (h0 : l.head? ≠ some 0) (h0' : l'.head? ≠ some 0) (h : Nat.ofDigits b l.reverse = Nat.ofDigits b l'.reverse) :
    l = l' := by
  have key : ∀ l : List Nat, (∀ d ∈ l, d < b) → l.head? ≠ some 0 →
      Nat.digits b (Nat.ofDigits b l.reverse) = l.reverse := by
    intro l hl h0
    refine Nat.digits_ofDigits b hb _ (by simpa using hl) fun hne e => h0 ?_
    rw [← e, List.getLast_reverse, List.head?_eq_some_head]
  rw [← List.reverse_inj, ← key l hl h0, ← key l' hl' h0', h]

theorem leading_replicate_append {b : Byte} {r : Bytes} (k : Nat) (h : r.head? ≠ some b) :
    leading b (List.replicate k b ++ r) = k := by
  induction k with
  | zero =>
    cases r with
    | nil => rfl
    | cons c r => exact if_neg (by simpa using h)
  | succ k ih =>
    rw [List.replicate_succ, List.cons_append, leading, if_pos rfl, ih]

theorem intBE_replicate_append (k : Nat) (r : Bytes) : intBE (List.replicate k 0 ++ r) = intBE r := by
  induction k with
  | zero => rfl
  | succ k ih =>
    rw [List.replicate_succ, List.cons_append, intBE_cons, ih]
    exact (Nat.zero_mul _).symm ▸ Nat.zero_add _

theorem intBE_eq_ofDigits (s : Bytes) : intBE s = Nat.ofDigits 256 (s.map BitVec.toNat).reverse := by
  induction s with
  | nil => rfl
  | cons b s ih =>
    rw [intBE_cons, ih, List.map_cons, Nat.ofDigits_reverse_cons, List.length_map]
    ring

theorem head?_map_toNat {s : Bytes} (h : s.head? ≠ some 0) : (s.map BitVec.toNat).head? ≠ some 0 := by
  cases s with
  | nil => simp
  | cons b s =>
    intro e
    have e : b.toNat = 0 := by simpa using e
    exact h (congrArg some (BitVec.eq_of_toNat_eq e))

theorem bytes_unique {s t : Bytes} (hs : s.head? ≠ some 0) (ht : t.head? ≠ some 0) (h : intBE s = intBE t) : s = t := by
  rw [intBE_eq_ofDigits, intBE_eq_ofDigits] at h
  have hlt : ∀ u : Bytes, ∀ d ∈ u.map BitVec.toNat, d < 256 := by
    intro u d hd
    obtain ⟨b, -, rfl⟩ := List.mem_map.1 hd
    exact b.isLt
  exact List.map_injective_iff.2 (fun _ _ => BitVec.eq_of_toNat_eq)
    (digits_unique (by decide) (hlt s) (hlt t) (head?_map_toNat hs) (head?_map_toNat ht) h)

theorem strip0_head? (s : Bytes) : (strip0 s).head? ≠ some 0 := by
  intro h
  obtain ⟨t, e⟩ := List.head?_eq_some_iff.1 h
  exact head_ne_zero_of_strip0 e rfl

namespace Base58

/-! ### Characters and digit values (R230, R231) -/

theorem alphabet_ascii : ∀ v, v < 58 → (chr v).toNat =
    ("123456789ABCDEFGHJKLMNPQRSTUVWXYZabcdefghijkmnopqrstuvwxyz".toList.getD v ' ').toNat := by decide

theorem chr_zero : chr 0 = 0x31 := rfl

theorem val_chr : ∀ v, v < 58 → val (chr v) = some v := by decide

theorem chr_of_val {c : Byte} {v : Nat} (h : val c = some v) : chr v = c := by
  obtain ⟨hv, hc, -⟩ := List.findIdx?_eq_some_iff_getElem.1 h
  rw [chr, List.getD_eq_getElem _ _ hv]
  exact beq_iff_eq.1 hc

/-- A text over the alphabet is the text of its digit values. -/
theorem mapM_val_eq_some_iff {t : Bytes} {ds : List Nat} :
    t.mapM val = some ds ↔ t = ds.map chr ∧ ∀ d ∈ ds, d < 58 := by
  induction t generalizing ds with
  | nil =>
    constructor
    · intro h
      have : ds = [] := by simpa using h.symm
      simp [this]
    · rintro ⟨h, -⟩
      have : ds = [] := by simpa using h.symm
      simp [this]
  | cons c t ih =>
    constructor
    · intro h
      obtain ⟨d, ds', hd, hds, rfl⟩ := mapM_val_cons h
      obtain ⟨ht, hlt⟩ := ih.1 hds
      refine ⟨by rw [List.map_cons, chr_of_val hd, ← ht], ?_⟩
      rw [List.forall_mem_cons]
      exact ⟨val_lt hd, hlt⟩
    · rintro ⟨h, hlt⟩
      cases ds with
      | nil => cases h
      | cons d ds =>
        rw [List.map_cons, List.cons.injEq] at h
        obtain ⟨rfl, ht⟩ := h
        rw [List.forall_mem_cons] at hlt
        rw [List.mapM_cons, val_chr d hlt.1, ih.2 ⟨ht, hlt.2⟩]
        rfl

theorem mapM_val_eq_none {t : Bytes} {c : Byte} (hc : c ∈ t) (h : ∀ v, v < 58 → chr v ≠ c) : t.mapM val = none := by
  cases e : t.mapM val with
  | none => rfl
  | some ds =>
    obtain ⟨rfl, hlt⟩ := mapM_val_eq_some_iff.1 e
    obtain ⟨d, hd, hdc⟩ := List.mem_map.1 hc
    exact absurd hdc (h d (hlt d hd))

theorem chr_ne_chr_zero {d : Nat} (h : d < 58) (h0 : d ≠ 0) : chr d ≠ chr 0 := by
  intro e
  have := val_chr d h
  rw [e, val_one] at this
  exact h0 (Option.some.inj this).symm

theorem head?_map_chr {ds : List Nat} (hlt : ∀ d ∈ ds, d < 58) (h0 : ds.head? ≠ some 0) :
    (ds.map chr).head? ≠ some (chr 0) := by
  cases ds with
  | nil => simp
  | cons d ds =>
    rw [List.map_cons, List.head?_cons, Ne, Option.some.injEq]
    exact chr_ne_chr_zero (hlt d List.mem_cons_self) (by simpa using h0)

/-! ### The value of digits (R232, R234) -/

theorem value_eq_ofDigits (ds : List Nat) : value ds = Nat.ofDigits 58 ds.reverse := by
  induction ds with
  | nil => rfl
  | cons d ds ih =>
    rw [value_cons, ih, Nat.ofDigits_reverse_cons]
    ring

theorem value_replicate_append (k : Nat) (ds : List Nat) : value (List.replicate k 0 ++ ds) = value ds := by
  induction k with
  | zero => rfl
  | succ k ih => simp [List.replicate_succ, value_cons, ih]

theorem value_unique {ds es : List Nat} (hd : ∀ d ∈ ds, d < 58) (he : ∀ d ∈ es, d < 58) (h0 : ds.head? ≠ some 0)
    (h0' : es.head? ≠ some 0) (h : value ds = value es) : ds = es := by
  rw [value_eq_ofDigits, value_eq_ofDigits] at h
  exact digits_unique (by decide) hd he h0 h0' h

theorem value_lt_pow {ds : List Nat} (h : ∀ d ∈ ds, d < 58) : value ds < 58 ^ ds.length := by
  rw [value_eq_ofDigits, ← List.length_reverse]
  exact Nat.ofDigits_lt_base_pow_length (by decide) (by simpa using h)

theorem digits_lt {fuel v : Nat} {acc : List Nat} (h : ∀ d ∈ acc, d < 58) : ∀ d ∈ digits fuel v acc, d < 58 := by
  induction fuel generalizing v acc with
  | zero => exact h
  | succ fuel ih =>
    rw [digits]
    split
    · exact h
    · refine ih ?_
      rw [List.forall_mem_cons]
      exact ⟨Nat.mod_lt _ (by decide), h⟩

theorem digits_zero (fuel : Nat) (acc : List Nat) : digits fuel 0 acc = acc := by
  cases fuel <;> rfl

/-- The first digit is the last quotient that is not 0. -/
theorem digits_head? {fuel v : Nat} (hv : v < 58 ^ fuel) (h0 : v ≠ 0) (acc : List Nat) :
    (digits fuel v acc).head? ≠ some 0 := by
  induction fuel generalizing v acc with
  | zero => simp at hv; omega
  | succ fuel ih =>
    rw [digits, if_neg h0]
    by_cases hq : v / 58 = 0
    · rw [hq, digits_zero, List.head?_cons, Ne, Option.some.injEq]
      omega
    · exact ih (by rw [Nat.pow_succ] at hv; omega) hq _

/-! ### The digits of a string -/

/-- The base-58 digits of the integer of a string (R232). -/
def digitsOf (m : Bytes) : List Nat := digits (2 * m.length) (intBE m) []

section
variable (m : Bytes)

theorem digitsOf_lt : ∀ d ∈ digitsOf m, d < 58 := digits_lt (by simp)

theorem digitsOf_head? : (digitsOf m).head? ≠ some 0 := by
  unfold digitsOf
  by_cases h0 : intBE m = 0
  · rw [h0, digits_zero]
    simp
  · exact digits_head? (intBE_lt_pow58 m) h0 []

theorem value_digitsOf : value (digitsOf m) = intBE m := by
  rw [digitsOf, value_digits _ _ _ (intBE_lt_pow58 m)]
  simp [value]

theorem encode_eq : encode m = List.replicate (leading 0 m) 0x31 ++ (digitsOf m).map chr := rfl

end

/-! ### A string and its text -/

section
variable {k : Nat} {r : Bytes} {ds : List Nat} (hr : r.head? ≠ some 0) (hd : ∀ d ∈ ds, d < 58)
  (h0 : ds.head? ≠ some 0) (hv : value ds = intBE r)
include hr hd h0 hv

/-- `k` zero bytes and a string with the integer of `ds` become the text of `k` digits 0 and `ds`. -/
theorem encode_replicate_append :
    encode (List.replicate k 0 ++ r) = (List.replicate k 0 ++ ds).map chr := by
  have hds : digitsOf (List.replicate k 0 ++ r) = ds :=
    value_unique (digitsOf_lt _) hd (digitsOf_head? _) h0 (by rw [value_digitsOf, intBE_replicate_append, hv])
  rw [encode_eq, leading_replicate_append k hr, hds, List.map_append, List.map_replicate, chr_zero]

/-- The text of `k` digits 0 and `ds` becomes `k` zero bytes and the string with the integer of `ds`. -/
theorem decode_map_chr : decode ((List.replicate k 0 ++ ds).map chr) = .ok (List.replicate k 0 ++ r) := by
  have hall : ∀ d ∈ List.replicate k 0 ++ ds, d < 58 := by
    intro d h
    obtain h | h := List.mem_append.1 h
    · rw [List.eq_of_mem_replicate h]
      decide
    · exact hd d h
  have hlead : leading (chr 0) ((List.replicate k 0 ++ ds).map chr) = k := by
    rw [List.map_append, List.map_replicate]
    exact leading_replicate_append k (head?_map_chr hd h0)
  have hlt : intBE r < 256 ^ ((List.replicate k 0 ++ ds).map chr).length := by
    rw [← hv, ← value_replicate_append k, List.length_map]
    exact (value_lt_pow hall).trans_le (Nat.pow_le_pow_left (by decide) _)
  have hstrip : strip0 (bytesBE (intBE r) ((List.replicate k 0 ++ ds).map chr).length) = r :=
    bytes_unique (strip0_head? _) hr (by rw [intBE_strip0, intBE_bytesBE, Nat.mod_eq_of_lt hlt])
  rw [decode, mapM_val_eq_some_iff.2 ⟨rfl, hall⟩]
  dsimp only
  rw [hlead, value_replicate_append, hv, hstrip]

end

theorem decode_encode (m : Bytes) : decode (encode m) = .ok m := by
  obtain ⟨k, r, rfl, hr⟩ := exists_replicate_append (0 : Byte) m
  rw [encode_replicate_append hr (digitsOf_lt r) (digitsOf_head? r) (value_digitsOf r)]
  exact decode_map_chr hr (digitsOf_lt r) (digitsOf_head? r) (value_digitsOf r)

/-- The bytes of the integer that digits stand for, without a leading zero byte. -/
theorem exists_bytes_of_digits (ds : List Nat) : ∃ r : Bytes, r.head? ≠ some 0 ∧ value ds = intBE r := by
  refine ⟨strip0 (bytesBE (value ds) (value ds)), strip0_head? _, ?_⟩
  rw [intBE_strip0, intBE_bytesBE, Nat.mod_eq_of_lt (Nat.lt_pow_self (by decide))]

/-- A text over the alphabet by its digits, the leading ones apart. -/
theorem exists_digits_of_text {ds : List Nat} (hlt : ∀ d ∈ ds, d < 58) : ∃ k es, ds = List.replicate k 0 ++ es ∧
    (∀ d ∈ es, d < 58) ∧ es.head? ≠ some 0 := by
  obtain ⟨k, es, rfl, he⟩ := exists_replicate_append 0 ds
  exact ⟨k, es, rfl, fun d hd => hlt d (List.mem_append_right _ hd), he⟩

theorem encode_of_decode {t m : Bytes} (h : decode t = .ok m) : encode m = t := by
  cases hds : t.mapM val with
  | none =>
    rw [decode, hds] at h
    cases h
  | some ds =>
    obtain ⟨rfl, hlt⟩ := mapM_val_eq_some_iff.1 hds
    obtain ⟨k, es, rfl, hes, he0⟩ := exists_digits_of_text hlt
    obtain ⟨r, hr, hv⟩ := exists_bytes_of_digits es
    rw [decode_map_chr hr hes he0 hv] at h
    cases h
    exact encode_replicate_append hr hes he0 hv

theorem checkDecode_checkEncode (p : Bytes) : checkDecode (checkEncode p) = .ok p :=
  (checkDecode_append (decode_encode _) (checksum_length p)).trans (if_pos rfl)

end Base58

/-! ### What B58DEC leaves -/

section
variable {s t : State} (ht : exec .b58dec s = .next t)
include ht

theorem b58dec_faulted {e : ErrCode} (h : Base58.decode s.msg = .error e) : s.Faulted t e :=
  faulted_of_eq_raise ht (by rw [exec, execB58dec, h, attempt_error, raise_eq])

theorem b58dec_writesMsg (hw : s.bufCanonical) {m : Bytes} (h : Base58.decode s.msg = .ok m) : s.WritesMsg t m := by
  have hlen : m.length ≤ 256 := calc
    m.length ≤ s.msg.length := Base58.decode_length_le h
    _ = s.len.val := State.msg_length s
    _ ≤ 256 := Nat.le_of_lt_succ s.len.isLt
  exact writesMsg_of_eq_setMsg ht hw hlen (by rw [exec, execB58dec, h, attempt_ok])

end

/-! ### The obligations -/

/-- Settles O57: both directions compare leading zeros and the unique digits of the integer; the checksum is that of the
payload. -/
theorem base58RoundTrips : Obligations.Base58RoundTrips :=
  ⟨Base58.decode_encode, fun _ _ => Base58.encode_of_decode, Base58.checkDecode_checkEncode⟩

/-- Settles O55: B58ENC writes the text of `encode`, and `digitsOf` has the value of the message. -/
theorem base58Encode : Obligations.Base58Encode := by
  refine ⟨Base58.alphabet_ascii, fun s hw => ?_⟩
  obtain ⟨t, ht, hfits, hlong⟩ := setText_writes s hw (Base58.encode s.msg)
  have hlen : (Base58.encode s.msg).length = leading 0 s.msg + (Base58.digitsOf s.msg).length := by
    simp [Base58.encode_eq]
  rw [hlen] at hfits hlong
  refine ⟨by decide, t, Base58.digitsOf s.msg, ht, Base58.digitsOf_lt _, Base58.digitsOf_head? _,
    (Base58.sum_eq_value _).trans (Base58.value_digitsOf _), hfits, hlong, fun hl => ?_⟩
  rw [← hlen]
  refine Base58.encode_length_le_of_pow_le ?_
  calc 256 ^ s.msg.length ≤ 256 ^ 187 := Nat.pow_le_pow_right (by decide) ((State.msg_length s).trans_le hl)
    _ ≤ 58 ^ 256 := by decide

/-- Settles O56: the text by its digits, `decode_map_chr` for what they become. -/
theorem base58Decode : Obligations.Base58Decode := by
  refine ⟨Base58.alphabet_ascii, fun s hw => ?_⟩
  obtain ⟨t, ht⟩ := exec_next .b58dec s
  refine ⟨by decide, t, ht, fun ⟨c, hc, hno⟩ => ?_, fun ds hlt hmsg => ?_⟩
  · exact b58dec_faulted ht (by rw [Base58.decode, Base58.mapM_val_eq_none hc hno])
  · obtain ⟨k, es, rfl, hes, he0⟩ := Base58.exists_digits_of_text hlt
    obtain ⟨r, hr, hv⟩ := Base58.exists_bytes_of_digits es
    have hlead : leading 0x31 s.msg = k := by
      rw [hmsg, List.map_append, List.map_replicate, Base58.chr_zero]
      exact leading_replicate_append k (Base58.head?_map_chr hes he0)
    have hdec : Base58.decode s.msg = .ok (List.replicate k 0 ++ r) := hmsg ▸ Base58.decode_map_chr hr hes he0 hv
    refine ⟨r, hlead.symm ▸ b58dec_writesMsg ht hw hdec, hr, ?_⟩
    rw [Base58.sum_eq_value, Base58.value_replicate_append, hv]

end Sys2Proof.Machine
end

section
/-!
PROOFS. NONCE and SIGN (44_ecdsa R203 to R206): one candidate of the loop as a step, the loop up to its first accepted
candidate, and the signature that an accepted candidate gives.
-/

namespace Sys2Proof.Machine

open Sys2Proof.Config (prime order)

/-! ### One candidate (R203) -/

section
variable (s : State) (d : Word) (accept : Nat → Nat → Result)

theorem withNonce_badLength (h : s.len.val ≠ 32) : withNonce s d accept = raise s .badLength := by
  rw [withNonce, digestZ, State.msg_length, if_pos h, attempt_error, raise_eq]

/-- With a 32-byte message the round is decided by the candidate alone. -/
theorem withNonce_eq {s : State} (hl : s.len.val = 32) {z : Nat} {l : NonceLoop}
    (hz : z = if order ≤ intBE s.msg then intBE s.msg - order else intBE s.msg)
    (hloop : l = s.nonceLoop.getD (nonceSeed d.toNat z)) : withNonce s d accept =
      if 1 ≤ nonceCandidate l ∧ nonceCandidate l < order then accept z (nonceCandidate l)
      else .next { s with nonceLoop := some (nonceRetry l) } := by
  have hacc : ∀ c, nonceAccepted c = true ↔ 1 ≤ c ∧ c < order := by simp [nonceAccepted]
  subst hloop hz
  rw [withNonce, digestZ_eq ((State.msg_length s).trans hl), attempt_ok]
  exact if_congr (hacc _) rfl rfl

end

/-- A value below `N` fits a register. -/
theorem toNat_word_of_lt_order {v : Nat} (h : v < order) : (word v).toNat = v :=
  toNat_word_of_lt (n := 32) (h.trans (by decide)) (by decide)

theorem run_succ {s t : State} (h : step s = .next t) (n : Nat) : run (n + 1) s = run n t := by
  rw [run, h]

/-! ### The loop up to its first accepted candidate (R203, R340) -/

/-- A command that tries one candidate of the sequence `L` a step completes with the first accepted one. -/
theorem run_withNonce {s : State} {i : Instr} {d : Word} {accept : Nat → Nat → Result} (hb : s.busy = true)
    (hops : s.hostOps = []) (hd : decode s.cmd = .ok i) (hnone : s.nonceLoop = none) (hl : s.len.val = 32)
    (hex : ∀ o, exec i { s with nonceLoop := o } = withNonce { s with nonceLoop := o } d accept) {z n : Nat}
    (hz : z = if order ≤ intBE s.msg then intBE s.msg - order else intBE s.msg) {L : Nat → NonceLoop}
    (h0 : nonceSeed d.toNat z = L 0) (hL : ∀ j, L (j + 1) = nonceRetry (L j))
    (hrefused : ∀ j, j < n → ¬ (1 ≤ nonceCandidate (L j) ∧ nonceCandidate (L j) < order))
    (haccepted : 1 ≤ nonceCandidate (L n) ∧ nonceCandidate (L n) < order) {t : State}
    (ht : accept z (nonceCandidate (L n)) = .next t) : run (n + 1) s = some t := by
  have hstep : ∀ o l, l = o.getD (nonceSeed d.toNat z) → step { s with nonceLoop := o } =
      if 1 ≤ nonceCandidate l ∧ nonceCandidate l < order then accept z (nonceCandidate l)
      else .next { s with nonceLoop := some (nonceRetry l) } := fun o l ho =>
    (stepRunsTheDecodedCommand.1 { s with nonceLoop := o } i hb hops hd).trans
      ((hex o).trans (withNonce_eq (s := { s with nonceLoop := o }) d accept hl hz ho))
  have hrest : ∀ m j o, j + m = n → L j = o.getD (nonceSeed d.toNat z) →
      run (m + 1) { s with nonceLoop := o } = some t := by
    intro m
    induction m with
    | zero =>
      intro j o hj ho
      obtain rfl : j = n := hj
      rw [run_succ ((hstep o _ ho).trans ((if_pos haccepted).trans ht))]
      rfl
    | succ m ih =>
      intro j o hj ho
      rw [run_succ ((hstep o _ ho).trans (if_neg (hrefused j (by omega)))), ← hL]
      exact ih (j + 1) (some (L (j + 1))) (by omega) rfl
  have hs : { s with nonceLoop := none } = s := by rw [← hnone]
  rw [← hs]
  exact hrest n 0 none (Nat.zero_add n) h0.symm

/-- The sequence of R203, written in `hmac`, as the sequence of the loop's retries. -/
theorem nonceRetry_mk {k v : Nat → Bytes} (hk : ∀ j, k (j + 1) = hmac (k j) (hmac (k j) (v j) ++ [0x00]))
    (hv : ∀ j, v (j + 1) = hmac (k (j + 1)) (hmac (k j) (v j))) (j : Nat) :
    NonceLoop.mk (k (j + 1)) (v (j + 1)) = nonceRetry ⟨k j, v j⟩ := by
  rw [hv, hk]
  rfl

/-! ### NONCE (R204) -/

theorem exec_nonce (s : State) (rd rs1 : XReg) :
    exec (.nonce rd rs1) s = withNonce s (s.readX rs1) fun _ k => finishX s rd (word k) := rfl

/-- An accepted candidate ends the loop, so what NONCE leaves does not depend on it. -/
theorem exec_nonce_withLoop (s : State) (rd rs1 : XReg) (o : Option NonceLoop) :
    exec (.nonce rd rs1) { s with nonceLoop := o } =
      withNonce { s with nonceLoop := o } (s.readX rs1) fun _ k => finishX s rd (word k) := rfl

/-- Settles O47: `withNonce_eq`, with the loop's seed and retry written out. -/
theorem nonceCandidateStep : Obligations.NonceCandidateStep := by
  intro s rd rs1
  obtain ⟨t, ht⟩ := exec_next (.nonce rd rs1) s
  refine ⟨decode_nonce rd rs1, fun hl =>
    ⟨t, ht, faulted_of_eq_raise ht ((exec_nonce s rd rs1).trans (withNonce_badLength s _ _ hl))⟩, ?_⟩
  rintro z c db zb k1 v1 k2 v2 l hl hz rfl rfl hk1 hv1 hk2 hv2 hloop hc
  obtain rfl : c = nonceCandidate l := hc
  rw [← nonceSeed_eq hk1 hv1 hk2 hv2] at hloop
  have hexec := (exec_nonce s rd rs1).trans (withNonce_eq _ _ hl hz hloop)
  by_cases hc : 1 ≤ nonceCandidate l ∧ nonceCandidate l < order
  · rw [if_pos hc] at hexec
    refine ⟨_, hexec, ?_⟩
    have hw := writeX_complete s rd (word (nonceCandidate l))
    rw [toNat_word_of_lt_order hc.2] at hw
    rwa [if_pos hc]
  · rw [if_neg hc] at hexec
    refine ⟨_, hexec, ?_⟩
    rw [if_neg hc]
    rfl

/-- Settles O48: `run_withNonce` with the sequence of R203. -/
theorem nonceCompletes : Obligations.NonceCompletes := by
  rintro s rd rs1 z n db zb k1 v1 k v c hb hops hcmd hnone hl hz rfl rfl hk1 hv1 hk0 hv0 hk hv hc href h1 hlt
  obtain rfl : c = fun j => nonceCandidate ⟨k j, v j⟩ := funext hc
  have hd : decode s.cmd = .ok (.nonce rd rs1) := by
    rw [hcmd]
    exact decode_nonce rd rs1
  have hrun := run_withNonce (L := fun j => ⟨k j, v j⟩) hb hops hd hnone hl (exec_nonce_withLoop s rd rs1) hz
    (nonceSeed_eq hk1 hv1 hk0 hv0) (nonceRetry_mk hk hv) href ⟨h1, hlt⟩ (finishX_eq s rd _)
  have hw := writeX_complete s rd (word (nonceCandidate ⟨k n, v n⟩))
  rw [toNat_word_of_lt_order hlt] at hw
  exact ⟨_, hrun, hw⟩

end Sys2Proof.Machine
end

section
/-!
PROOFS. The signature of an accepted candidate (44_ecdsa R205, R206), SIGN, and the verification of what signing makes
(R207, section 6).
-/

namespace Sys2Proof.Machine

open Sys2Proof.Config (prime order)

/-! ### The point `k·G` of a nonce (R205) -/

theorem exists_multiple_basePoint {k : Nat} (h1 : 1 ≤ k) (hk : k < order) :
    ∃ x y : Word, multiple k basePoint = .pt x y := by
  cases h : multiple k basePoint with
  | inf => exact absurd h (basePointHasOrderN.2.2 k h1 hk)
  | pt x y => exact ⟨x, y, rfl⟩

theorem signR_eq {k : Nat} (hk : k < order) {x y : Word} (h : multiple k basePoint = .pt x y) : signR k = x := by
  have : Fact prime.Prime := ⟨prime_prime⟩
  have hp : pmul k basePoint = .pt x y := by
    rw [pmul_eq_multiple k basePoint_valid, Nat.mod_eq_of_lt hk, h]
  rw [signR, hp]

theorem signS_eq (d z k r : Nat) : signS d z k r =
    if (z + r * d) * invN k % order > order / 2 then order - (z + r * d) * invN k % order
    else (z + r * d) * invN k % order := rfl

theorem signS_lt (d z k r : Nat) : signS d z k r < order := by
  have hlt : (z + r * d) * invN k % order < order := Nat.mod_lt _ order_prime.pos
  rw [signS_eq]
  split
  · exact Nat.sub_lt order_prime.pos (by omega)
  · exact hlt

/-! ### SIGN (R205, R206) -/

section
variable (s : State) (rd rs3 rs1 : XReg)

/-- What SIGN does with an accepted candidate `k`. -/
def signWith (z k : Nat) : Result :=
  finishX (s.writeX rd (signR k)) rs3 (word (signS (s.xNat rs1) z k (signR k).toNat))

variable {rd rs3} (hne : rd ≠ rs3)
include hne

theorem exec_sign : exec (.sign rd rs3 rs1) s = withNonce s (s.readX rs1) (signWith s rd rs3 rs1) := if_neg hne

/-- An accepted candidate ends the loop, so what SIGN leaves does not depend on it. -/
theorem exec_sign_withLoop (o : Option NonceLoop) : exec (.sign rd rs3 rs1) { s with nonceLoop := o } =
    withNonce { s with nonceLoop := o } (s.readX rs1) (signWith s rd rs3 rs1) := if_neg hne

/-- The signature of R205: `r` is the first coordinate of `k·G`, and `s` has the inverse of `k` modulo `N`. -/
theorem signWith_writes (z : Nat) {k : Nat} (h1 : 1 ≤ k) (hk : k < order) :
    ∃ (t : State) (r y : Word) (ki sv : Nat), signWith s rd rs3 rs1 z k = .next t ∧
      multiple k basePoint = .pt r y ∧ 1 ≤ ki ∧ ki < order ∧ k * ki % order = 1 ∧
      sv = (z + r.toNat * (s.readX rs1).toNat) * ki % order ∧
      s.WritesTwoX t rd rs3 r.toNat (if sv > order / 2 then order - sv else sv) := by
  obtain ⟨r, y, hr⟩ := exists_multiple_basePoint h1 hk
  obtain ⟨hki1, hki, hinv⟩ := invN_spec (a := k) (by rw [Nat.mod_eq_of_lt hk]; omega)
  obtain ⟨t, ht, hw⟩ : ∃ t, signWith s rd rs3 rs1 z k = .next t ∧
      s.WritesTwoX t rd rs3 (signR k).toNat (signS (s.xNat rs1) z k (signR k).toNat) := by
    refine ⟨_, finishX_eq _ _ _, ?_⟩
    have hw := writeTwoX_complete s hne (signR k) (word (signS (s.xNat rs1) z k (signR k).toNat))
    rwa [toNat_word_of_lt_order (signS_lt _ _ _ _)] at hw
  rw [signR_eq hk hr, signS_eq] at hw
  exact ⟨t, r, y, invN k, _, ht, hr, hki1, hki, hinv, rfl, hw⟩

end

/-- Settles O49: `withNonce_eq` decides the round, `signWith_writes` says what an accepted candidate gives. -/
theorem signatureValue : Obligations.SignatureValue := by
  refine ⟨fun rd rs1 => (decode_sign rd rd rs1).trans (by simp [distinct, Instr.wellFormed]),
    fun s rd rs3 rs1 hne => ?_⟩
  have hwf : (Instr.sign rd rs3 rs1).wellFormed = true := decide_eq_true hne
  obtain ⟨t, ht⟩ := exec_next (.sign rd rs3 rs1) s
  refine ⟨(decode_sign rd rs3 rs1).trans (distinct_of_wellFormed hwf), fun hl =>
    ⟨t, ht, faulted_of_eq_raise ht ((exec_sign s rs1 hne).trans (withNonce_badLength s _ _ hl))⟩, ?_⟩
  rintro z k db zb k1 v1 k2 v2 l hl hz rfl rfl hk1 hv1 hk2 hv2 hloop hk
  obtain rfl : k = nonceCandidate l := hk
  rw [← nonceSeed_eq hk1 hv1 hk2 hv2] at hloop
  have hexec := (exec_sign s rs1 hne).trans (withNonce_eq _ _ hl hz hloop)
  by_cases hc : 1 ≤ nonceCandidate l ∧ nonceCandidate l < order
  · obtain ⟨u, r, y, ki, sv, hu, hsig⟩ := signWith_writes s rs1 hne z hc.1 hc.2
    rw [if_pos hc, hu] at hexec
    refine ⟨u, hexec, ?_⟩
    rw [if_pos hc]
    exact ⟨r, y, ki, sv, hsig⟩
  · rw [if_neg hc] at hexec
    refine ⟨_, hexec, ?_⟩
    rw [if_neg hc]
    rfl

/-- Settles O60: `run_withNonce` with the sequence of R203, then the signature of the accepted candidate. -/
theorem signCompletes : Obligations.SignCompletes := by
  rintro s rd rs3 rs1 z n db zb k1 v1 k v c hne hb hops hcmd hnone hl hz rfl rfl hk1 hv1 hk0 hv0 hk hv hc href h1 hlt
  obtain rfl : c = fun j => nonceCandidate ⟨k j, v j⟩ := funext hc
  have hwf : (Instr.sign rd rs3 rs1).wellFormed = true := decide_eq_true hne
  have hd : decode s.cmd = .ok (.sign rd rs3 rs1) := by
    rw [hcmd]
    exact (decode_sign rd rs3 rs1).trans (distinct_of_wellFormed hwf)
  obtain ⟨t, r, y, ki, sv, ht, hsig⟩ := signWith_writes s rs1 hne z h1 hlt
  have hrun := run_withNonce (L := fun j => ⟨k j, v j⟩) hb hops hd hnone hl (exec_sign_withLoop s rs1 hne) hz
    (nonceSeed_eq hk1 hv1 hk0 hv0) (nonceRetry_mk hk hv) href ⟨h1, hlt⟩ ht
  exact ⟨t, r, y, ki, sv, hrun, hsig⟩

/-! ### Scalars of the base point modulo `N` -/

section
variable [Fact prime.Prime] {a b : Nat}

theorem nsmul_basePoint_eq (h : (a : ZMod order) = b) : a • basePoint.toCurve = b • basePoint.toCurve := by
  rw [nsmul_eq_nsmul_iff_modEq, addOrderOf_basePoint]
  exact (ZMod.natCast_eq_natCast_iff a b order).1 h

theorem nsmul_basePoint_eq_neg (h : (a : ZMod order) = -b) : a • basePoint.toCurve = -(b • basePoint.toCurve) := by
  have h0 : ((a + b : Nat) : ZMod order) = (0 : Nat) := by
    rw [Nat.cast_add, h, neg_add_cancel, Nat.cast_zero]
  rw [eq_neg_iff_add_eq_zero, ← add_nsmul, nsmul_basePoint_eq h0, zero_nsmul]

end

section
variable [Fact order.Prime]

theorem cast_invN {a : Nat} (ha : a % order ≠ 0) : (invN a : ZMod order) = (a : ZMod order)⁻¹ := by
  obtain ⟨-, -, h⟩ := invN_spec ha
  refine eq_inv_of_mul_eq_one_right ?_
  have h : ((a * invN a : Nat) : ZMod order) = (1 : Nat) := by
    rw [ZMod.natCast_eq_natCast_iff', h, Nat.mod_eq_of_lt order_prime.one_lt]
  exact_mod_cast h

/-- `s·k` is `z + r·d` or, by the low-s step, its negative (R205). -/
theorem cast_signS_mul {d z k r : Nat} (hk : k % order ≠ 0) :
    (z + r * d : ZMod order) = signS d z k r * k ∨ (z + r * d : ZMod order) = -(signS d z k r * k) := by
  have hk0 : (k : ZMod order) ≠ 0 := by
    rw [Ne, ZMod.natCast_eq_zero_iff]
    exact fun h => hk (Nat.mod_eq_zero_of_dvd h)
  have hsv : (((z + r * d) * invN k % order : Nat) : ZMod order) * k = z + r * d := by
    rw [ZMod.natCast_mod, Nat.cast_mul, cast_invN hk, inv_mul_cancel_right₀ hk0]
    push_cast
    rfl
  rw [signS_eq]
  split
  · right
    rw [Nat.cast_sub (Nat.mod_lt _ order_prime.pos).le, ZMod.natCast_self, zero_sub, neg_mul, neg_neg, hsv]
  · exact .inl hsv.symm

/-- The scalar of the base point that verification computes is `k` or its negative. -/
theorem cast_verifyScalar {d z k r m : Nat} (hk : k % order ≠ 0) (hm : (m : ZMod order) = z)
    (hs : signS d z k r % order ≠ 0) {w : Nat} (hw : w = m * invN (signS d z k r % order) % order +
      r * invN (signS d z k r % order) % order * (d % order)) : (w : ZMod order) = k ∨ (w : ZMod order) = -k := by
  have hs0 : (signS d z k r : ZMod order) ≠ 0 := by
    rw [Ne, ZMod.natCast_eq_zero_iff]
    exact fun h => hs (Nat.mod_eq_zero_of_dvd h)
  have hw' : (w : ZMod order) = (z + r * d) * (signS d z k r : ZMod order)⁻¹ := by
    have hs' : signS d z k r % order % order ≠ 0 := fun e => hs ((Nat.mod_mod _ _).symm.trans e)
    subst hw
    push_cast
    simp only [ZMod.natCast_mod, Nat.cast_mul]
    rw [cast_invN hs', ZMod.natCast_mod, hm]
    ring
  rw [hw']
  obtain h | h := cast_signS_mul (d := d) (z := z) (r := r) hk
  · left
    rw [h, mul_comm (signS d z k r : ZMod order), mul_inv_cancel_right₀ hs0]
  · right
    rw [h, mul_comm (signS d z k r : ZMod order), neg_mul, mul_inv_cancel_right₀ hs0]

end

/-! ### What signing makes is valid (section 6) -/

/-- The digest of signing is that of verifying up to a multiple of `N` (R200, R207). -/
theorem cast_digestZ {m : Bytes} {z : Nat} (h : digestZ m = .ok z) :
    m.length = 32 ∧ (intBE m : ZMod order) = z := by
  by_cases hl : m.length = 32
  · rw [digestZ_eq hl] at h
    cases h
    refine ⟨hl, ?_⟩
    split
    · rename_i hge
      rw [Nat.cast_sub hge, ZMod.natCast_self, sub_zero]
    · rfl
  · rw [digestZ, if_pos hl] at h
    cases h

/-- The point of verification, a sum of multiples of the base point (R207). -/
theorem verifyPoint_toCurve [Fact prime.Prime] (u v d : Nat) :
    (padd (pmul u basePoint) (pmul v (pmul d basePoint))).valid = true ∧
      (padd (pmul u basePoint) (pmul v (pmul d basePoint))).toCurve =
        (u % order + v % order * (d % order)) • basePoint.toCurve := by
  obtain ⟨hd, hdc⟩ := pmul_toCurve d basePoint_valid
  obtain ⟨hu, huc⟩ := pmul_toCurve u basePoint_valid
  obtain ⟨hv, hvc⟩ := pmul_toCurve v hd
  obtain ⟨hp, hpc⟩ := padd_toCurve hu hv
  exact ⟨hp, by rw [hpc, huc, hvc, hdc, add_nsmul, mul_nsmul']⟩

/-- A point that is `k·G` or its opposite has the first coordinate of `k·G`. -/
theorem eq_pt_of_toCurve [Fact prime.Prime] {k w : Nat} {p : Point} {x y : Word} (hx : multiple k basePoint = .pt x y)
    (hp : p.valid = true) (hpc : p.toCurve = w • basePoint.toCurve)
    (hw : (w : ZMod order) = k ∨ (w : ZMod order) = -k) : ∃ y', p = .pt x y' := by
  obtain ⟨hv, hc⟩ := multiple_toCurve k basePoint_valid
  obtain hw | hw := hw
  · refine ⟨y, ?_⟩
    rw [← hx, ← toCurve_inj hp hv, hpc, hc, nsmul_basePoint_eq hw]
  · obtain ⟨hov, hoc⟩ := opposite_toCurve hv
    rw [hx] at hov hoc
    refine ⟨_, (toCurve_inj hp hov).1 ?_⟩
    rw [hpc, hoc, ← hx, hc, nsmul_basePoint_eq_neg hw]

/-- Settles O51: verification computes the point `±k·G`, whose first coordinate is `r`. -/
theorem signedMessagesVerify : Obligations.SignedMessagesVerify := by
  have : Fact prime.Prime := ⟨prime_prime⟩
  have : Fact order.Prime := ⟨order_prime⟩
  intro d k z m _ h1 hk hz hs
  obtain ⟨hl, hm⟩ := cast_digestZ hz
  obtain ⟨x, y, hx⟩ := exists_multiple_basePoint h1 hk
  rw [signR_eq hk hx] at hs ⊢
  have hsmod : signS d z k x.toNat % order ≠ 0 := by
    rwa [Nat.mod_eq_of_lt (signS_lt _ _ _ _)]
  obtain ⟨hp, hpc⟩ := verifyPoint_toCurve (intBE m * invN (signS d z k x.toNat % order) % order)
    (x.toNat * invN (signS d z k x.toNat % order) % order) d
  rw [Nat.mod_mod, Nat.mod_mod] at hpc
  obtain ⟨y', hy'⟩ := eq_pt_of_toCurve hx hp hpc
    (cast_verifyScalar (by rw [Nat.mod_eq_of_lt hk]; omega) hm hsmod rfl)
  rw [verify, if_neg (not_not.2 hl), (verifyDigest_iff hsmod).2 ⟨x, y', rfl, hy'⟩]

end Sys2Proof.Machine
end
